-- ==== Sys2Proof/Word.lean ====
section
/-! DEFINITION. The word types of the Upalin 4816 and nothing else: bytes, 32-bit registers, host addresses, device
times, and the fixed-size images the block reads from host memory. -/

namespace Sys2Proof

/-- One byte of a record. -/
abbrev Byte := BitVec 8

/-- One register of the window (12.7), a DETAIL or a digest. -/
abbrev Word := BitVec 32

/-- A device time: a count of 10 us ticks (R62). -/
abbrev Time := BitVec 32

/-- A host-memory address. -/
abbrev Addr := BitVec 64

/-- A 32-byte submission record (12.1), byte 0 in bits 7..0. -/
abbrev RawRecord := BitVec 256

/-- The 64-byte bootstrap block (12.4), byte 0 in bits 7..0. -/
abbrev BootBlock := BitVec 512

/-- A 16-byte completion record (12.3), byte 0 in bits 7..0. -/
abbrev CompletionRecord := BitVec 128

/-- A slot of the Outstanding Table, 0 to 63 (R44). -/
abbrev Slot := Fin 64

/-- An output point, OUT0 to OUT63. -/
abbrev PointId := Fin 64

/-- An input point, IN0 to IN31. -/
abbrev InputId := Fin 32

/-- A submission ring, ring 0 to ring 4. -/
abbrev RingId := Fin 5

end Sys2Proof
end

