-- ==== Sys2Proof/Syntax.lean ====
section
/-! DEFINITION. The commands of the block: one constructor for each row of spec/opcode_table.json, with its operands. -/

namespace Sys2Proof

/-- The two completion rings (file 10). -/
inductive CRingId where
  | c0
  | c1
  deriving DecidableEq, Repr

/-- How a bus-master read that was issued fails (00_scope.md, Failed host-memory access). A read that cannot be
issued fails in the event that issues it and needs no command. -/
inductive ReadFault where
  /-- The read completes with an error. -/
  | error
  /-- The read has not completed 4 ms after it was issued. -/
  | timeout
  deriving DecidableEq, Repr

/-- The two halves of the bootstrap block's address (R175). -/
inductive BootHalf where
  | lo
  | hi
  deriving DecidableEq, Repr

/-- The commands. A taking command (SET to UNKNOWN_KIND) names the ring whose prefetch buffer's head record is
taken; an admin command takes the head record of ring 0. The record's own fields come from the record. -/
inductive Instr where
  /-- POWER_ON_RESET (R174). -/
  | powerOnReset
  /-- LINK_RESET (R174). -/
  | linkReset
  /-- CONTROL_RESET (R174, R176): the CONTROL write of `value`, whose RESET bit is 1. -/
  | controlReset (value : Word)
  /-- ENABLE (R176): the CONTROL write of `value`, as it bears on ENABLE. -/
  | enable (value : Word)
  /-- IC0EN (R176): the CONTROL write of `value`, as it bears on IC0EN. -/
  | ic0en (value : Word)
  /-- IC1EN (R176): the CONTROL write of `value`, as it bears on IC1EN. -/
  | ic1en (value : Word)
  /-- ALERTEN (R176): the CONTROL write of `value`, as it bears on ALERTEN. -/
  | alerten (value : Word)
  /-- BOOT_READ_ARRIVAL (R178): the boot read arrives with this block. -/
  | bootReadArrival (block : BootBlock)
  /-- BOOT_READ_FAILURE (R177). -/
  | bootReadFailure (how : ReadFault)
  /-- BOOT_ADDRESS_WRITE (R175). -/
  | bootAddressWrite (half : BootHalf) (value : Word)
  /-- ALERT_WRITE (R190). -/
  | alertWrite (value : Word)
  /-- PRODUCER_WRITE (R138 to R140). -/
  | producerWrite (value : Word)
  /-- CONSUMER_WRITE (R164). -/
  | consumerWrite (value : Word)
  /-- REGISTER_WRITE_OTHER (R195): a host write of `width` bytes at `offset` of the register window. -/
  | registerWriteOther (offset : BitVec 6) (width : Nat) (value : Word)
  /-- SET (R9). -/
  | set (ring : RingId)
  /-- CLEAR (R9). -/
  | clear (ring : RingId)
  /-- PULSE (R10). -/
  | pulse (ring : RingId)
  /-- DELAY_SET (R11). -/
  | delaySet (ring : RingId)
  /-- DELAY_CLEAR (R11). -/
  | delayClear (ring : RingId)
  /-- BLINK (R12). -/
  | blink (ring : RingId)
  /-- NOTE (R35). -/
  | note (ring : RingId)
  /-- KEEPALIVE (R34). -/
  | keepalive (ring : RingId)
  /-- UNKNOWN_KIND (R192): the head record's KIND names no kind of the ring's class. -/
  | unknownKind (ring : RingId)
  /-- CONFIGURE_RING (R137). -/
  | configureRing
  /-- CONFIGURE_COMPLETION (R157). -/
  | configureCompletion
  /-- DEFINE_POINT (R2). -/
  | definePoint
  /-- DEFINE_INPUT (R104). -/
  | defineInput
  /-- DEFINE_ZONE (R117). -/
  | defineZone
  /-- DEFINE_GROUP (R82). -/
  | defineGroup
  /-- SET_SUPERVISION (R125). -/
  | setSupervision
  /-- ENTER_RUN (R180). -/
  | enterRun
  /-- ENTER_CONFIGURE (R181). -/
  | enterConfigure
  /-- DRAIN_END (R182). -/
  | drainEnd
  /-- FORCE_GROUP (R83). -/
  | forceGroup
  /-- RESTORE_SUPERVISION (R130). -/
  | restoreSupervision
  /-- CLEAR_POINT_FAULT (R19). -/
  | clearPointFault
  /-- RING_RESET (R150). -/
  | ringReset
  /-- RING_RESET_END (R151). -/
  | ringResetEnd
  /-- SNAPSHOT (R186). -/
  | snapshot
  /-- SNAPSHOT_WRITE_ACCEPTED (R187). -/
  | snapshotWriteAccepted
  /-- SNAPSHOT_WRITE_FAILED (R187). -/
  | snapshotWriteFailed
  /-- DIGEST (R188). -/
  | digest
  /-- OUTPUT_TIMER_EXPIRY (R71): of the first entry of the Timing List. -/
  | outputTimerExpiry
  /-- DEADLINE_EXPIRY (R73, R74): of the first entry of the Timing List. -/
  | deadlineExpiry
  /-- SETTLE_WINDOW_END (R16). -/
  | settleWindowEnd (point : PointId)
  /-- SENSE_CHANGE (R16): the sense line of `point` changes to `level` (true is ON). -/
  | senseChange (point : PointId) (level : Bool)
  /-- RAW_TRANSITION (R101): the sampled value of the pin of `input` changes. -/
  | rawTransition (input : InputId)
  /-- EDGE_EVENT (R106): the pending transition of `input` is qualified. -/
  | edgeEvent (input : InputId)
  /-- SUPERVISION_LAPSE (R127). -/
  | supervisionLapse
  /-- COALESCING_DELAY_EXPIRY (R167). -/
  | coalescingDelayExpiry (ring : CRingId)
  /-- COMPLETION_WRITE_ACCEPTED (R161). -/
  | completionWriteAccepted (ring : CRingId)
  /-- COMPLETION_WRITE_FAILED (R162). -/
  | completionWriteFailed (ring : CRingId)
  /-- READ_ARRIVAL (R144): the read in flight arrives with these records. -/
  | readArrival (records : List RawRecord)
  /-- READ_FAILURE (R145). -/
  | readFailure (how : ReadFault)
  deriving DecidableEq, Repr

end Sys2Proof
end

