-- ==== Sys2Proof/WellFormed.lean ====
section
/-! DEFINITION. Which commands have the shape of their row of spec/opcode_table.json. -/

namespace Sys2Proof

/-- A ring that carries action records, ring 1 to ring 4. -/
def isActionRing (r : RingId) : Bool := r != 0

/-- The RESET bit of a value written to CONTROL (12.7). -/
def resetBit (value : Word) : Bool := value.getLsbD 1

/-- A register write that REGISTER_WRITE_OTHER names: narrow, or at IDENT, STATUS, TIME or an unassigned offset
(R195). A full-width write at another offset belongs to another row. -/
def isOtherWrite (offset : BitVec 6) (width : Nat) : Bool :=
  width != 4 || (offset == 0x00 || offset == 0x08 || offset == 0x10 || decide (0x24 ≤ offset.toNat))

/-- The row's own shape. -/
def Instr.wf : Instr → Bool
  | .powerOnReset => true
  | .linkReset => true
  | .controlReset v => resetBit v
  | .enable v => !resetBit v
  | .ic0en v => !resetBit v
  | .ic1en v => !resetBit v
  | .alerten v => !resetBit v
  | .bootReadArrival _ => true
  | .bootReadFailure _ => true
  | .bootAddressWrite _ _ => true
  | .alertWrite _ => true
  | .producerWrite _ => true
  | .consumerWrite _ => true
  | .registerWriteOther offset width _ =>
      (width == 1 || width == 2 || width == 4) && offset.toNat % width == 0 && isOtherWrite offset width
  | .set r => isActionRing r
  | .clear r => isActionRing r
  | .pulse r => isActionRing r
  | .delaySet r => isActionRing r
  | .delayClear r => isActionRing r
  | .blink r => isActionRing r
  | .note r => isActionRing r
  | .keepalive r => isActionRing r
  | .unknownKind _ => true
  | .configureRing => true
  | .configureCompletion => true
  | .definePoint => true
  | .defineInput => true
  | .defineZone => true
  | .defineGroup => true
  | .setSupervision => true
  | .enterRun => true
  | .enterConfigure => true
  | .drainEnd => true
  | .forceGroup => true
  | .restoreSupervision => true
  | .clearPointFault => true
  | .ringReset => true
  | .ringResetEnd => true
  | .snapshot => true
  | .snapshotWriteAccepted => true
  | .snapshotWriteFailed => true
  | .digest => true
  | .outputTimerExpiry => true
  | .deadlineExpiry => true
  | .settleWindowEnd _ => true
  | .senseChange _ _ => true
  | .rawTransition _ => true
  | .edgeEvent _ => true
  | .supervisionLapse => true
  | .coalescingDelayExpiry _ => true
  | .completionWriteAccepted _ => true
  | .completionWriteFailed _ => true
  | .readArrival records => decide (1 ≤ records.length) && decide (records.length ≤ 8)
  | .readFailure _ => true

end Sys2Proof
end

