-- ==== Sys2Proof/Config.lean ====
section
/-! DEFINITION. What the data sheet fixes as numbers. It leaves no value open, so there is no free value here. -/

namespace Sys2Proof

/-- The settle window, 2 ms (R15, R65). -/
def settleTicks : Time := 200

/-- A bus-master read fails when it has not completed 4 ms after issue (R145, R177). -/
def readTimeoutTicks : Time := 400

/-- Ticks of one millisecond: DEBOUNCE and INTERVAL are given in it (R65). -/
def ticksPerMs : Nat := 100

/-- Ticks of 100 us: DELAY is given in it (R65). -/
def ticksPer100us : Nat := 10

/-- Records a prefetch buffer holds (R134, R141). -/
def bufferDepth : Nat := 8

/-- The quota of an action ring after a reset (R57, R135). -/
def resetQuota : Nat := 15

/-- The size a ring record holds after a reset (R135, R155). -/
def resetSize : Nat := 16

/-- IDENT: part number 12D0h, revision 01h (R189, 12.7). -/
def identWord : Word := 0x000112D0

end Sys2Proof
end

