-- ==== Sys2Proof/Machine/State.lean ====
section
/-! DEFINITION. The state of the block: every register, table, list and counter the data sheet names, as plain data,
and the queue of commands that wait. -/

namespace Sys2Proof.Machine

/-! ## Code values (12.2) -/

/-- The eight action kinds (R21). -/
inductive ActionKind where
  | set | clear | pulse | delaySet | delayClear | blink | note | keepalive
  deriving DecidableEq, Repr

/-- The fifteen admin kinds (11.4). -/
inductive AdminKind where
  | configureRing | configureCompletion | definePoint | defineInput | defineZone | defineGroup | setSupervision
  | enterRun | enterConfigure | forceGroup | restoreSupervision | clearPointFault | ringReset | snapshot | digest
  deriving DecidableEq, Repr

/-- The status codes of the completion record (2.9, 12.2). -/
inductive Status where
  | done | badrec | nozone | denied | ptflt | gated | busy | trgtmo | gatetmo
  | cxsuper | cxlock | cxptflt | cxmode | cxreset | cxrflt | lapsed
  | astate | acqnr | aovlp | adigest | aorder | abuf
  deriving DecidableEq, Repr

/-- DSTATE (R172). -/
inductive DState where
  | init | booting | configure | run | draining | halted
  deriving DecidableEq, Repr

/-- HREASON (R183, R189). -/
inductive HReason where
  | none | bootflt | bootbad | aringflt | c0flt
  deriving DecidableEq, Repr

/-- RCAUSE (R174, R189). -/
inductive RCause where
  | powerOn | link | control
  deriving DecidableEq, Repr

/-- The point MODE (R1): PLAIN is driven OFF when its group closes, HELD keeps its level. -/
inductive PointMode where
  | plain | held
  deriving DecidableEq, Repr

/-- PSTATE (R1). -/
inductive PState where
  | normal | faulted
  deriving DecidableEq, Repr

/-- The EDGE field of a trigger (R26). -/
inductive Edge where
  | none | rise | fall | either
  deriving DecidableEq, Repr

/-- SUPV (R124). -/
inductive Supv where
  | off | ok | lapsed
  deriving DecidableEq, Repr

/-- The state of a submission ring (9.2). -/
inductive RingState where
  | disabled | active | faulted | resetting
  deriving DecidableEq, Repr

/-- Why a ring is FAULTED (R147). -/
inductive FaultCause where
  | none | fetchflt | badprod | regress | cqflt
  deriving DecidableEq, Repr

/-- The state of a completion ring (10.1). C0 before a boot is unset, which is held as `disabled` (log 2). -/
inductive CRingState where
  | disabled | active | faulted
  deriving DecidableEq, Repr

/-! ## The Outstanding Table (file 03) -/

/-- The answer of an entry: STATUS, DETAIL and decision time, set together (R45). -/
structure Answer where
  status : Status
  detail : Word
  time : Time
  deriving DecidableEq, Repr

/-- The progress of a BLINK (R12, R13). -/
structure Blink where
  /-- The phase: true is ON. -/
  phaseOn : Bool
  /-- Cycles remaining. -/
  remaining : Nat
  deriving DecidableEq, Repr

/-- The STATE of an entry (R46). -/
inductive EntryState where
  /-- Being taken: it stands only within the taking event (log 5). -/
  | intake
  /-- TIMED, with the progress of a BLINK. -/
  | timed (blink : Option Blink)
  | triggerWait
  | gateWait
  | adminActive
  /-- ANSWER_PENDING, with its answer. -/
  | answered (answer : Answer)
  deriving DecidableEq, Repr

/-- An OT entry (3.2, R45). The operative fields are the record's 32 bytes as taken; TAG and d are read from them. -/
structure Entry where
  ring : RingId
  pos : Nat
  record : RawRecord
  st : EntryState
  deriving DecidableEq, Repr

/-! ## The Timing List (file 04) -/

inductive TimerKind where
  | outputTimer | deadline
  deriving DecidableEq, Repr

/-- An entry of the Timing List (4.2). The insertion sequence is the place in the list. -/
structure TimerEntry where
  owner : Slot
  kind : TimerKind
  due : Time
  deriving DecidableEq, Repr

/-! ## The Point Table (file 01) -/

/-- A point record (1.1) and its sense pin. -/
structure Point where
  group : Fin 8
  mode : PointMode
  readback : Bool
  /-- LEVEL, and the drive pin: true is ON (R3). -/
  level : Bool
  pstate : PState
  claim : Option Slot
  /-- The settle window: closed, or open with its end time. -/
  window : Option Time
  /-- The sense pin, an input from the field: true is ON (R3). -/
  sense : Bool
  deriving DecidableEq, Repr

/-- The point record after a reset (R1), with the sense pin as it stands. -/
def Point.atReset (sense : Bool) : Point :=
  { group := 0, mode := .plain, readback := false, level := false, pstate := .normal, claim := none, window := none,
    sense := sense }

/-! ## The Group Unit (file 05) -/

/-- A literal slot (R80): unused, or a source and whether it is negated. -/
inductive Literal where
  | unused
  | input (i : InputId) (neg : Bool)
  | gate (g : Fin 8) (neg : Bool)
  | supok (neg : Bool)
  deriving DecidableEq, Repr

/-- The state of one of G1 to G7 (5.1). -/
structure Group where
  /-- The number of terms, 0 to 4. -/
  terms : Nat
  /-- The sixteen literal slots: slot s of term t stands at 4t + s. -/
  lits : Vector Literal 16
  force : Bool
  /-- GATE: true is OPEN. -/
  gate : Bool
  waits : List Slot
  deriving DecidableEq, Repr

/-- A group after a reset (R79). -/
def Group.atReset : Group :=
  { terms := 0, lits := Vector.replicate 16 .unused, force := false, gate := false, waits := [] }

/-! ## The Input Unit (file 06) -/

/-- An input record (6.1) and its pin. -/
structure Input where
  debounce : Byte
  invert : Bool
  /-- The sampled pin, an input from the field: true is high (R100). -/
  pin : Bool
  /-- The raw level: the pin with INVERT applied. -/
  raw : Bool
  qualified : Bool
  pendingSince : Option Time
  capture : Time
  waits : List Slot
  /-- A raw transition has been taken at the present tick: the pin is sampled once per tick (R100). -/
  moved : Bool
  deriving DecidableEq, Repr

/-- The input record after a reset (R99): the levels are sampled from the pin. -/
def Input.atReset (pin : Bool) : Input :=
  { debounce := 0, invert := false, pin := pin, raw := pin, qualified := pin, pendingSince := none, capture := 0,
    waits := [], moved := false }

/-! ## The Zone Table (file 07) -/

/-- A zone entry (7.1). Bit n of RINGS names ring n + 1. -/
structure Zone where
  en : Bool
  base : Nat
  size : Nat
  rings : BitVec 4
  onok : Bool
  offok : Bool
  deriving DecidableEq, Repr

/-- A zone entry after a reset (R116). -/
def Zone.atReset : Zone := { en := false, base := 0, size := 1, rings := 0, onok := false, offok := false }

/-! ## The Supervision Timer (file 08) -/

/-- INTERVAL, SUPV and the countdown's due time (8.1). -/
structure Supervision where
  interval : BitVec 16
  supv : Supv
  countdown : Option Time
  deriving DecidableEq, Repr

/-- The Supervision Timer after a reset (R124). -/
def Supervision.atReset : Supervision := { interval := 0, supv := .off, countdown := none }

/-! ## The Fetch Unit (file 09) -/

/-- A submission ring's record (9.1). Its read in flight is the channel's (`Device.channel`). -/
structure Ring where
  state : RingState
  base : Addr
  size : Nat
  bound : CRingId
  quota : Nat
  producer : Nat
  tail : Nat
  /-- The prefetch buffer, the record at the tail first. -/
  buf : List RawRecord
  cause : FaultCause
  deriving DecidableEq, Repr

/-- A ring record after a reset (R135). Ring 0 is unset: its fields read the same (log 2). -/
def Ring.atReset : Ring :=
  { state := .disabled, base := 0, size := resetSize, bound := .c0, quota := resetQuota, producer := 0, tail := 0,
    buf := [], cause := .none }

/-- The read the channel carries (R143). -/
structure ReadOp where
  ring : RingId
  first : Nat
  count : Nat
  /-- The read's host address. -/
  addr : Addr
  /-- The read's length in bytes. -/
  length : Nat
  discard : Bool
  issued : Time
  deriving DecidableEq, Repr

/-! ## The Completion Writer (file 10) -/

/-- A completion write in flight (R159, R160). -/
structure CWrite where
  pos : Nat
  addr : Addr
  record : CompletionRecord
  deriving DecidableEq, Repr

/-- A completion ring's record (10.1). -/
structure CRing where
  state : CRingState
  base : Addr
  size : Nat
  producer : Nat
  consumer : Nat
  phase : Bool
  thresh : Nat
  delay : Nat
  countdown : Option Time
  ic : Bool
  queue : List Slot
  inflight : Option CWrite
  deriving DecidableEq, Repr

/-- A completion ring's record after a reset (R155). C0 is unset: its fields read the same (log 2). -/
def CRing.atReset : CRing :=
  { state := .disabled, base := 0, size := resetSize, producer := 0, consumer := 0, phase := true, thresh := 1,
    delay := 0, countdown := none, ic := false, queue := [], inflight := none }

/-! ## The Admin Unit (file 11) -/

/-- The boot read in flight (R177). -/
structure BootRead where
  addr : Addr
  issued : Time
  deriving DecidableEq, Repr

/-- The SNAPSHOT write in flight (R187). -/
structure SnapWrite where
  addr : Addr
  image : List Byte
  deriving DecidableEq, Repr

/-- What the block reads of its link and of its configuration space, and the messages it sent. Inputs from outside,
but for `messages` (log 1). -/
structure Link where
  up : Bool
  /-- Bus mastering is enabled in the function's command register. -/
  master : Bool
  /-- The function's message interrupt is enabled. -/
  msi : Bool
  /-- The function's interrupt disable bit. -/
  intxOff : Bool
  /-- Message interrupts sent so far (R169): the model's own record of an output. -/
  messages : Nat
  deriving DecidableEq, Repr

/-! ## The whole block -/

/-- The state of the block. -/
structure Device where
  dstate : DState
  hreason : HReason
  rcause : RCause
  /-- ALERT in the register's layout (12.7). -/
  alert : Word
  /-- CONTROL in the register's layout (12.7). -/
  control : Word
  bootLo : Word
  bootHi : Word
  bootCopy : Option BootBlock
  bootRead : Option BootRead
  snapWrite : Option SnapWrite
  now : Time
  timing : List TimerEntry
  slots : Vector (Option Entry) 64
  points : Vector Point 64
  /-- G1 to G7: group k stands at k - 1. -/
  groups : Vector Group 7
  inputs : Vector Input 32
  zones : Vector Zone 8
  sup : Supervision
  rings : Vector Ring 5
  channel : Option ReadOp
  lastGrant : RingId
  /-- What a read of PRODUCER returns (9.3). -/
  producerReg : Word
  c0 : CRing
  c1 : CRing
  /-- What a read of CONSUMER returns (10.5). -/
  consumerReg : Word
  link : Link
  deriving DecidableEq, Repr

/-- The machine: the block and the queue of commands that wait, first in, first out. -/
structure State where
  dev : Device
  pending : List Instr
  deriving DecidableEq, Repr

/-- No meaning raises a fault: the data sheet stops the block nowhere (HALTED is a state it goes on in). -/
inductive Fault where
  /-- Raised by nothing. Safe. -/
  | neverRaised
  deriving DecidableEq, Repr

/-- Why a command has no meaning. -/
inductive Refusal where
  /-- Raised by an arm of `exec` whose command has no meaning yet; no arm is left so. Safe. -/
  | notModelled (mnemonic : String)
  deriving DecidableEq, Repr

/-- The block after a reset with the given cause, field levels and link (R174 and the rules its table names). -/
def Device.afterReset (cause : RCause) (senses : Vector Bool 64) (pins : Vector Bool 32) (link : Link) : Device :=
  { dstate := .init, hreason := .none, rcause := cause, alert := 0, control := 0, bootLo := 0, bootHi := 0,
    bootCopy := none, bootRead := none, snapWrite := none, now := 0, timing := [],
    slots := Vector.replicate 64 none,
    points := senses.map Point.atReset,
    groups := Vector.replicate 7 Group.atReset,
    inputs := pins.map Input.atReset,
    zones := Vector.replicate 8 Zone.atReset,
    sup := Supervision.atReset,
    rings := Vector.replicate 5 Ring.atReset,
    channel := none, lastGrant := 4, producerReg := 0,
    c0 := CRing.atReset, c1 := CRing.atReset, consumerReg := 0,
    link := link }

/-- The link and configuration-space inputs at `State.reset` (log 1, DESIGN CHOICE). -/
def Link.atReset : Link := { up := true, master := true, msi := false, intxOff := false, messages := 0 }

/-- The machine right after a power-on reset, every field line low (log 1), nothing waiting. -/
def State.reset : State :=
  { dev := Device.afterReset .powerOn (Vector.replicate 64 false) (Vector.replicate 32 false) Link.atReset
    pending := [] }

/-- A command whose effect on the block is `f` and which never stops. -/
def State.run (s : State) (f : Device → Device) : Host.Outcome State Fault Refusal :=
  .next { s with dev := f s.dev }

end Sys2Proof.Machine
end

