-- ==== Sys2Proof/Machine/Operands.lean ====
section
/-! DEFINITION. The fields of every record and register the host writes (file 12), the checks made on them, and the
codes the block writes. -/

namespace Sys2Proof.Machine

/-! ## Bytes of a record -/

/-- Byte `i` of a record or block: byte 0 is the least significant (file 12, little-endian). -/
def byteAt {n : Nat} (r : BitVec n) (i : Nat) : Byte := r.extractLsb' (8 * i) 8

/-- The 16-bit field at byte `i`. -/
def halfAt {n : Nat} (r : BitVec n) (i : Nat) : BitVec 16 := r.extractLsb' (8 * i) 16

/-- The 32-bit field at byte `i`. -/
def wordAt {n : Nat} (r : BitVec n) (i : Nat) : Word := r.extractLsb' (8 * i) 32

/-- The 64-bit field at byte `i`. -/
def addrAt {n : Nat} (r : BitVec n) (i : Nat) : Addr := r.extractLsb' (8 * i) 64

/-- The `k` bytes of a number, least significant first. -/
def bytesOf (k : Nat) (v : Nat) : List Byte :=
  (List.range k).map (fun i => BitVec.ofNat 8 (v / 256 ^ i))

/-- A host address that a ring, the bootstrap block or a snapshot buffer may have: a multiple of 64. -/
def aligned64 (a : Addr) : Bool := a.extractLsb' 0 6 == 0

/-- 16, 32, 64 and so on up to 4096 (R137, R157, 11.3). -/
def isRingSize (n : Nat) : Bool :=
  [16, 32, 64, 128, 256, 512, 1024, 2048, 4096].contains n

/-! ## KIND, FLAGS and TAG (12.1, 12.2) -/

/-- The kinds an action ring carries. -/
def actionKindOf (r : RawRecord) : Option ActionKind :=
  match (byteAt r 0).toNat with
  | 0x01 => some .set
  | 0x02 => some .clear
  | 0x03 => some .pulse
  | 0x04 => some .delaySet
  | 0x05 => some .delayClear
  | 0x06 => some .blink
  | 0x07 => some .note
  | 0x08 => some .keepalive
  | _ => none

/-- The kinds ring 0 carries. -/
def adminKindOf (r : RawRecord) : Option AdminKind :=
  match (byteAt r 0).toNat with
  | 0x10 => some .configureRing
  | 0x11 => some .configureCompletion
  | 0x12 => some .definePoint
  | 0x13 => some .defineInput
  | 0x14 => some .defineZone
  | 0x15 => some .defineGroup
  | 0x16 => some .setSupervision
  | 0x17 => some .enterRun
  | 0x18 => some .enterConfigure
  | 0x19 => some .forceGroup
  | 0x1A => some .restoreSupervision
  | 0x1B => some .clearPointFault
  | 0x1C => some .ringReset
  | 0x1D => some .snapshot
  | 0x1E => some .digest
  | _ => none

def fenceOf (r : RawRecord) : Bool := (byteAt r 1).getLsbD 0
def supersedeOf (r : RawRecord) : Bool := (byteAt r 1).getLsbD 1
def waitGateOf (r : RawRecord) : Bool := (byteAt r 1).getLsbD 2
def trigOf (r : RawRecord) : Bool := (byteAt r 1).getLsbD 3

def tagOf (r : RawRecord) : BitVec 16 := halfAt r 2

/-! ## The fields of an action record (2.2, 12.1) -/

/-- The output point a valid output-kind record names (R24). -/
def pointOf (r : RawRecord) : PointId := Fin.ofNat 64 (byteAt r 4).toNat

/-- The input a valid trigger names (R26). -/
def trigInOf (r : RawRecord) : InputId := Fin.ofNat 32 (byteAt r 9).toNat

def edgeOf (r : RawRecord) : Edge :=
  match (byteAt r 10).toNat with
  | 1 => .rise
  | 2 => .fall
  | 3 => .either
  | _ => .none

def cyclesOf (r : RawRecord) : Nat := (byteAt r 8).toNat

/-- Ticks of a unit code (R25, R27, R65). -/
def unitTicks (code : Byte) : Nat :=
  match code.toNat with
  | 0 => 10
  | 1 => 100
  | 2 => 1000
  | _ => 10000

/-- The duration d (R25). -/
def durationOf (r : RawRecord) : Time := BitVec.ofNat 32 ((halfAt r 6).toNat * unitTicks (byteAt r 5))

/-- LIMIT x LUNIT in ticks; 0 means no deadline (R27). -/
def limitOf (r : RawRecord) : Time := BitVec.ofNat 32 ((halfAt r 12).toNat * unitTicks (byteAt r 11))

/-- The effect class of a kind (R21). -/
def isOnEffect : ActionKind → Bool
  | .set | .pulse | .delaySet | .blink => true
  | .clear | .delayClear | .note | .keepalive => false

/-- The trigger fields follow R26. -/
def triggerFieldsOk (r : RawRecord) : Bool :=
  if trigOf r then decide ((byteAt r 9).toNat ≤ 31) && byteAt r 10 != 0 && decide ((byteAt r 10).toNat ≤ 3)
  else byteAt r 9 == 0 && byteAt r 10 == 0

/-- The conditions common to all action kinds (R29): reserved flags and bytes zero, unit codes listed, LIMIT 0 with
the 100 us LUNIT, and the trigger fields. -/
def commonFieldsOk (r : RawRecord) : Bool :=
  (byteAt r 1).extractLsb' 4 4 == 0 && r.extractLsb' 112 144 == (0 : BitVec 144) &&
    decide ((byteAt r 5).toNat ≤ 3) && decide ((byteAt r 11).toNat ≤ 3) &&
    (halfAt r 12 != 0 || byteAt r 11 == 0) && triggerFieldsOk r

/-- POINT 0 to 63 (R24). -/
def outputPointOk (r : RawRecord) : Bool := decide ((byteAt r 4).toNat ≤ 63)

/-- UNIT, COUNT and CYCLES zero, for kinds that take no time (R25). -/
def noDuration (r : RawRecord) : Bool := byteAt r 5 == 0 && halfAt r 6 == 0 && byteAt r 8 == 0

/-- The row of R29's table for a kind. -/
def kindFieldsOk (k : ActionKind) (r : RawRecord) : Bool :=
  match k with
  | .set | .clear => outputPointOk r && noDuration r
  | .pulse | .delaySet | .delayClear => outputPointOk r && halfAt r 6 != 0 && byteAt r 8 == 0
  | .blink => outputPointOk r && halfAt r 6 != 0 && byteAt r 8 != 0
  | .note =>
      decide ((byteAt r 4).toNat ≤ 31) && byteAt r 4 == byteAt r 9 && noDuration r && trigOf r &&
        !waitGateOf r && !supersedeOf r
  | .keepalive =>
      byteAt r 4 == 0 && noDuration r && !trigOf r && !waitGateOf r && !supersedeOf r && halfAt r 12 == 0

/-- Validation of an action record of kind `k` (R29). -/
def validAction (k : ActionKind) (r : RawRecord) : Bool := commonFieldsOk r && kindFieldsOk k r

/-! ## The fields of the admin records (12.1) -/

/-- The bytes of a kind's layout that carry a field; every other byte is reserved (R192). -/
def adminLayout : AdminKind → List Nat
  | .configureRing | .configureCompletion => [4, 5, 6, 8, 9, 16, 17, 18, 19, 20, 21, 22, 23]
  | .definePoint => [4, 5, 6, 7]
  | .defineInput => [4, 5, 6]
  | .defineZone => [4, 5, 6, 7, 8, 9, 10]
  | .defineGroup => [4, 5, 6, 7, 8, 9, 10, 11, 12, 13, 14, 15, 16, 17, 18, 19, 20, 21]
  | .setSupervision => [4, 5]
  | .enterRun => [4, 8, 9, 10, 11]
  | .forceGroup | .ringReset => [4, 5]
  | .clearPointFault => [4]
  | .snapshot => [8, 9, 10, 11, 12, 13, 14, 15]
  | .enterConfigure | .restoreSupervision | .digest => []

/-- Every reserved byte of an admin record is zero: byte 1, and every byte from 4 that its layout does not use. -/
def adminReservedOk (k : AdminKind) (r : RawRecord) : Bool :=
  byteAt r 1 == 0 &&
    (List.range 28).all (fun i => (adminLayout k).contains (i + 4) || byteAt r (i + 4) == 0)

/-- A byte that codes a flag: 0 or 1. -/
def isFlagCode (b : Byte) : Bool := b == 0 || b == 1

/-- The submission ring named by byte 4 of CONFIGURE_RING and RING_RESET, when it is 1 to 4. -/
def ringNumberOk (r : RawRecord) : Bool := decide (1 ≤ (byteAt r 4).toNat) && decide ((byteAt r 4).toNat ≤ 4)
def ringNumberOf (r : RawRecord) : RingId := Fin.ofNat 5 (byteAt r 4).toNat

/-- The parameters of CONFIGURE_RING (R137). -/
def configureRingOk (r : RawRecord) : Bool :=
  adminReservedOk .configureRing r && ringNumberOk r && aligned64 (addrAt r 16) && isRingSize (halfAt r 8).toNat &&
    isFlagCode (byteAt r 5) && decide (1 ≤ (byteAt r 6).toNat) && decide ((byteAt r 6).toNat ≤ 60)

/-- THRESH: 1 to size - 1, at most 32 (R157, 11.3). -/
def threshOk (thresh size : Nat) : Bool := decide (1 ≤ thresh) && decide (thresh ≤ 32) && decide (thresh ≤ size - 1)

/-- The parameters of CONFIGURE_COMPLETION (R157): the ring number names C1. -/
def configureCompletionOk (r : RawRecord) : Bool :=
  adminReservedOk .configureCompletion r && byteAt r 4 == 1 && aligned64 (addrAt r 16) &&
    isRingSize (halfAt r 8).toNat && threshOk (byteAt r 5).toNat (halfAt r 8).toNat

/-- The parameters of DEFINE_POINT (R2). -/
def definePointOk (r : RawRecord) : Bool :=
  adminReservedOk .definePoint r && decide ((byteAt r 4).toNat ≤ 63) && decide ((byteAt r 5).toNat ≤ 7) &&
    isFlagCode (byteAt r 6) && isFlagCode (byteAt r 7)

/-- The parameters of DEFINE_INPUT (R104). -/
def defineInputOk (r : RawRecord) : Bool :=
  adminReservedOk .defineInput r && decide ((byteAt r 4).toNat ≤ 31) && isFlagCode (byteAt r 6)

/-- The zone entry a DEFINE_ZONE gives (R117, 12.1). -/
def zoneOf (r : RawRecord) : Zone :=
  { en := byteAt r 5 == 1, base := (byteAt r 6).toNat, size := (byteAt r 7).toNat,
    rings := (byteAt r 8).extractLsb' 0 4, onok := byteAt r 9 == 1, offok := byteAt r 10 == 1 }

/-- The parameters of DEFINE_ZONE (R117). -/
def defineZoneOk (r : RawRecord) : Bool :=
  adminReservedOk .defineZone r && decide ((byteAt r 4).toNat ≤ 7) && isFlagCode (byteAt r 5) &&
    [1, 2, 4, 8, 16, 32, 64].contains (byteAt r 7).toNat && decide ((byteAt r 6).toNat ≤ 63) &&
    (byteAt r 6).toNat % (byteAt r 7).toNat == 0 && (byteAt r 8).extractLsb' 4 4 == 0 &&
    isFlagCode (byteAt r 9) && isFlagCode (byteAt r 10)

/-- A literal slot byte (12.1): index in bits 0 to 4, literal kind in bits 5 and 6, negation in bit 7; `none` where
R82 refuses it (a GATE index above 7, a SUPOK index other than 0, an unused slot that is not 00h). -/
def literalOf (b : Byte) : Option Literal :=
  let index := (b.extractLsb' 0 5).toNat
  let neg := b.getLsbD 7
  match (b.extractLsb' 5 2).toNat with
  | 0 => if b == 0 then some .unused else none
  | 1 => some (.input (Fin.ofNat 32 index) neg)
  | 2 => if index ≤ 7 then some (.gate (Fin.ofNat 8 index) neg) else none
  | _ => if index = 0 then some (.supok neg) else none

/-- The byte of a literal slot, as DEFINE_GROUP gives it and the serialization holds it (12.6). -/
def literalByte : Literal → Byte
  | .unused => 0
  | .input i neg => BitVec.ofNat 8 (0x20 + i.val + (if neg then 0x80 else 0))
  | .gate g neg => BitVec.ofNat 8 (0x40 + g.val + (if neg then 0x80 else 0))
  | .supok neg => BitVec.ofNat 8 (0x60 + (if neg then 0x80 else 0))

/-- Literal slot `i` of a DEFINE_GROUP that passed its checks. -/
def slotLiteral (r : RawRecord) (i : Nat) : Literal := (literalOf (byteAt r (6 + i))).getD .unused

/-- The sixteen literal slots of a DEFINE_GROUP. -/
def groupLiterals (r : RawRecord) : Vector Literal 16 :=
  #v[slotLiteral r 0, slotLiteral r 1, slotLiteral r 2, slotLiteral r 3, slotLiteral r 4, slotLiteral r 5,
    slotLiteral r 6, slotLiteral r 7, slotLiteral r 8, slotLiteral r 9, slotLiteral r 10, slotLiteral r 11,
    slotLiteral r 12, slotLiteral r 13, slotLiteral r 14, slotLiteral r 15]

/-- The group named by byte 4 of DEFINE_GROUP and FORCE_GROUP is one of G1 to G7. -/
def groupNumberOk (r : RawRecord) : Bool := decide (1 ≤ (byteAt r 4).toNat) && decide ((byteAt r 4).toNat ≤ 7)

/-- The place of that group in `Device.groups`. -/
def groupIndexOf (r : RawRecord) : Fin 7 := Fin.ofNat 7 ((byteAt r 4).toNat - 1)

/-- The parameters of DEFINE_GROUP but for the order of GATE literals (R82). -/
def defineGroupOk (r : RawRecord) : Bool :=
  adminReservedOk .defineGroup r && groupNumberOk r && decide ((byteAt r 5).toNat ≤ 4) &&
    (List.range 16).all (fun i =>
      (literalOf (byteAt r (6 + i))).isSome && (decide (i / 4 < (byteAt r 5).toNat) || byteAt r (6 + i) == 0))

/-- A GATE literal's index is below the group's own number (R82, AORDER). -/
def gateOrderOk (r : RawRecord) : Bool :=
  (List.range 16).all (fun i =>
    match slotLiteral r i with
    | .gate g _ => decide (g.val < (byteAt r 4).toNat)
    | _ => true)

/-- The parameters of ENTER_RUN (R180). -/
def enterRunOk (r : RawRecord) : Bool :=
  adminReservedOk .enterRun r && (byteAt r 4).extractLsb' 2 6 == 0 &&
    ((byteAt r 4).getLsbD 1 || wordAt r 8 == 0)

def strictOf (r : RawRecord) : Bool := (byteAt r 4).getLsbD 0
def digestPresentOf (r : RawRecord) : Bool := (byteAt r 4).getLsbD 1
def expectedDigestOf (r : RawRecord) : Word := wordAt r 8

/-- The parameters of FORCE_GROUP (R83). -/
def forceGroupOk (r : RawRecord) : Bool :=
  adminReservedOk .forceGroup r && groupNumberOk r && isFlagCode (byteAt r 5)

/-- The parameters of CLEAR_POINT_FAULT (R19). -/
def clearPointFaultOk (r : RawRecord) : Bool :=
  adminReservedOk .clearPointFault r && decide ((byteAt r 4).toNat ≤ 63)

/-- The parameters of RING_RESET (R150). -/
def ringResetOk (r : RawRecord) : Bool := adminReservedOk .ringReset r && ringNumberOk r && isFlagCode (byteAt r 5)

/-- The DISABLE option of RING_RESET. -/
def disableOf (r : RawRecord) : Bool := byteAt r 5 == 1

/-- The parameters of SNAPSHOT (R186). -/
def snapshotOk (r : RawRecord) : Bool := adminReservedOk .snapshot r && aligned64 (addrAt r 8)

/-- The completion ring named by byte 5 of CONFIGURE_RING. -/
def cringCodeOf (b : Byte) : CRingId := if b == 1 then .c1 else .c0

/-! ## The bootstrap block (11.3, 12.4) -/

/-- The checks of R178. -/
def bootBlockOk (b : BootBlock) : Bool :=
  byteAt b 0 == 1 && b.extractLsb' 8 56 == (0 : BitVec 56) && aligned64 (addrAt b 8) &&
    decide (16 ≤ (halfAt b 16).toNat) && decide ((halfAt b 16).toNat ≤ 256) &&
    b.extractLsb' 144 48 == (0 : BitVec 48) && aligned64 (addrAt b 24) && isRingSize (halfAt b 32).toNat &&
    threshOk (byteAt b 34).toNat (halfAt b 32).toNat && b.extractLsb' 288 224 == (0 : BitVec 224)

/-! ## PRODUCER and CONSUMER values (12.7) -/

/-- The index field, bits 11 to 0. -/
def indexField (v : Word) : Nat := (v.extractLsb' 0 12).toNat

/-- The ring number field, bits 18 to 16. -/
def ringField (v : Word) : Nat := (v.extractLsb' 16 3).toNat

/-- Every reserved bit of PRODUCER and CONSUMER is zero (R195). -/
def indexReservedOk (v : Word) : Bool := v.extractLsb' 12 4 == (0 : BitVec 4) && v.extractLsb' 19 13 == (0 : BitVec 13)

/-- The completion ring a CONSUMER write names. -/
def cringNumber (n : Nat) : Option CRingId :=
  match n with
  | 0 => some .c0
  | 1 => some .c1
  | _ => none

/-! ## Codes the block writes (12.2) -/

def statusCode : Status → Byte
  | .done => 0x00 | .badrec => 0x01 | .nozone => 0x02 | .denied => 0x03 | .ptflt => 0x04 | .gated => 0x05
  | .busy => 0x06 | .trgtmo => 0x07 | .gatetmo => 0x08 | .cxsuper => 0x09 | .cxlock => 0x0A | .cxptflt => 0x0B
  | .cxmode => 0x0C | .cxreset => 0x0D | .cxrflt => 0x0E | .lapsed => 0x0F | .astate => 0x20 | .acqnr => 0x21
  | .aovlp => 0x22 | .adigest => 0x23 | .aorder => 0x24 | .abuf => 0x25

def dstateCode : DState → Nat
  | .init => 0 | .booting => 1 | .configure => 2 | .run => 3 | .draining => 4 | .halted => 5

def hreasonCode : HReason → Nat
  | .none => 0 | .bootflt => 1 | .bootbad => 2 | .aringflt => 3 | .c0flt => 4

def rcauseCode : RCause → Nat
  | .powerOn => 0 | .link => 1 | .control => 2

def ringStateCode : RingState → Nat
  | .disabled => 0 | .active => 1 | .faulted => 2 | .resetting => 3

def faultCauseCode : FaultCause → Nat
  | .none => 0 | .fetchflt => 1 | .badprod => 2 | .regress => 3 | .cqflt => 4

def cringStateCode : CRingState → Nat
  | .disabled => 0 | .active => 1 | .faulted => 2

def supvCode : Supv → Nat
  | .off => 0 | .ok => 1 | .lapsed => 2

/-- The 16 bytes of a completion record (12.3): TAG, RING with PHASE in bit 7, STATUS, POS, TAIL, TIME, DETAIL. -/
def completionRecord (e : Entry) (a : Answer) (tail : Nat) (phase : Bool) : CompletionRecord :=
  a.detail ++ a.time ++ BitVec.ofNat 16 tail ++ BitVec.ofNat 16 e.pos ++ statusCode a.status ++
    BitVec.ofBool phase ++ (0 : BitVec 4) ++ BitVec.ofNat 3 e.ring.val ++ tagOf e.record

end Sys2Proof.Machine
end

