-- ==== Sys2Proof/Machine/Flags.lean ====
section
/-! DEFINITION. The flag computations: the ALERT causes, the CONTROL enables, and the interrupt request. -/

namespace Sys2Proof.Machine

/-! ## ALERT (R190, 12.7) -/

def alertSuplapse : Word := 0x001
/-- The RINGFLT bit of an action ring: bit 1 for ring 1 to bit 4 for ring 4. -/
def alertRingflt (r : RingId) : Word := (1 : Word) <<< r.val
def alertC1flt : Word := 0x020
def alertPtflt : Word := 0x040
def alertBadidx : Word := 0x080
def alertHalt : Word := 0x100

/-- Set an ALERT cause; one already set stays set (R190). -/
def Device.raiseAlert (d : Device) (bits : Word) : Device := { d with alert := d.alert ||| bits }

/-! ## CONTROL (R176, 12.7) -/

/-- The bits of CONTROL that are stored and read back: ENABLE, IC0EN, IC1EN, ALERTEN. -/
def controlStored : Word := 0x1D

def Device.enableBit (d : Device) : Bool := d.control.getLsbD 0
def Device.ic0en (d : Device) : Bool := d.control.getLsbD 2
def Device.ic1en (d : Device) : Bool := d.control.getLsbD 3
def Device.alerten (d : Device) : Bool := d.control.getLsbD 4

/-! ## The interrupt request (R169) -/

/-- At least one enabled cause is present. -/
def Device.request (d : Device) : Bool :=
  (d.c0.ic && d.ic0en) || (d.c1.ic && d.ic1en) || (d.alert != 0 && d.alerten)

/-- The legacy line: asserted while the request is, unless message interrupts are enabled or the function's
interrupt disable bit is set (R169). -/
def Device.intxLine (d : Device) : Bool := d.request && !d.link.msi && !d.link.intxOff

/-- The end of an event that went from `before` to `d`: one message at a rise of the request, when message
interrupts are enabled (R169). `rearmed` is the further rise of R168. -/
def Device.signalRise (d : Device) (before : Device) (rearmed : Bool) : Device :=
  if d.link.msi && ((!before.request && d.request) || rearmed) then
    { d with link := { d.link with messages := d.link.messages + 1 } }
  else d

/-- Bus-master operations can be issued: the link is up and bus mastering is enabled (00_scope.md, Failed
host-memory access). -/
def Device.busReady (d : Device) : Bool := d.link.up && d.link.master

end Sys2Proof.Machine
end

