-- ==== Sys2Proof/Machine/Ops.lean ====
section
/-! DEFINITION. The shared operations on device time, the Timing List, the Outstanding Table, points, waits and
answers. -/

namespace Sys2Proof.Machine

/-! ## Device time (R62, R64) -/

/-- `a` is before `b`: their difference, as a signed 32-bit number, is negative (R64). -/
def timeBefore (a b : Time) : Bool := (a - b).msb

/-- The due time `due` is reached: `now` is at or after it (R64). -/
def timeReached (now due : Time) : Bool := !(timeBefore now due)

/-- A due time that may be absent has been reached. -/
def dueReached (now : Time) : Option Time → Bool
  | some due => timeReached now due
  | none => false

/-- Device time advances by one tick (R62), and every input pin may be sampled anew (R100). -/
def Device.tick (d : Device) : Device :=
  { d with now := d.now + 1, inputs := d.inputs.map (fun i => { i with moved := false }) }

/-- (a - b) modulo a ring's size (00_scope.md, Ring indices). -/
def indexSub (a b size : Nat) : Nat := (a + size - b % size) % size

/-! ## The slots, points, inputs and rings by number -/

/-- All 64 slots, lowest first. -/
def allSlots : List Slot := List.finRange 64

/-- All 64 points, in ascending number. -/
def allPoints : List PointId := List.finRange 64

/-- The action rings, in ascending number. -/
def actionRings : List RingId := [1, 2, 3, 4]

/-- The slots of a ring's pool: 60 to 63 for ring 0, 0 to 59 for the action rings (R44). -/
def poolSlots (r : RingId) : List Slot := if r = 0 then allSlots.drop 60 else allSlots.take 60

def Device.setSlot (d : Device) (a : Slot) (e : Option Entry) : Device := { d with slots := d.slots.set a e }
def Device.setPoint (d : Device) (p : PointId) (v : Point) : Device := { d with points := d.points.set p v }
def Device.setGroup (d : Device) (k : Fin 7) (v : Group) : Device := { d with groups := d.groups.set k v }
def Device.setInput (d : Device) (i : InputId) (v : Input) : Device := { d with inputs := d.inputs.set i v }
def Device.setRing (d : Device) (r : RingId) (v : Ring) : Device := { d with rings := d.rings.set r v }

/-- The record of a completion ring. -/
def Device.cring (d : Device) : CRingId → CRing
  | .c0 => d.c0
  | .c1 => d.c1

def Device.setCRing (d : Device) (c : CRingId) (v : CRing) : Device :=
  match c with
  | .c0 => { d with c0 := v }
  | .c1 => { d with c1 := v }

/-! ## Counts over the Outstanding Table (3.4) -/

/-- The slot holds an entry of ring `r`. -/
def isHeldBy (r : RingId) : Option Entry → Bool
  | some e => e.ring == r
  | none => false

/-- An entry is not in ANSWER_PENDING. -/
def Entry.isLive (e : Entry) : Bool :=
  match e.st with
  | .answered _ => false
  | _ => true

/-- The slot holds a live entry of ring `r`. -/
def isLiveOf (r : RingId) : Option Entry → Bool
  | some e => e.ring == r && e.isLive
  | none => false

/-- Held: the entries of ring `r` in any state (3.4). -/
def Device.held (d : Device) (r : RingId) : Nat := d.slots.toList.countP (isHeldBy r)

/-- Live: the entries of ring `r` not in ANSWER_PENDING (3.4). -/
def Device.liveCount (d : Device) (r : RingId) : Nat := d.slots.toList.countP (isLiveOf r)

/-- The lowest-numbered free slot of the ring's pool (R44). -/
def Device.lowestFree (d : Device) (r : RingId) : Option Slot := (poolSlots r).find? (fun a => d.slots[a].isNone)

/-- The slot holds an ADMIN_ACTIVE entry. -/
def isAdminActive : Option Entry → Bool
  | some e => e.st == .adminActive
  | none => false

/-- The slot of the ADMIN_ACTIVE entry (R46: at most one). -/
def Device.adminActive? (d : Device) : Option Slot := (poolSlots 0).find? (fun a => isAdminActive d.slots[a])

/-- No action entry remains in the table (R50, R60). -/
def Device.actionPoolEmpty (d : Device) : Bool := (poolSlots 1).all (fun a => d.slots[a].isNone)

/-! ## The Timing List (4.2) -/

/-- Insert behind every entry whose due time is not after the new one's (R67). -/
def insertTimer (t : TimerEntry) : List TimerEntry → List TimerEntry
  | [] => [t]
  | x :: xs => if timeBefore t.due x.due then t :: x :: xs else x :: insertTimer t xs

/-- Insertion into the Timing List (R68). -/
def Device.addTimer (d : Device) (t : TimerEntry) : Device := { d with timing := insertTimer t d.timing }

/-- Withdrawal of the entry a slot owns, if it owns one; the others keep their order (R69). -/
def Device.withdraw (d : Device) (a : Slot) : Device := { d with timing := d.timing.filter (fun t => t.owner != a) }

/-! ## Answers (R42, R51, R158) -/

/-- The completion ring a ring's answers go to (R51, R136). -/
def Device.binding (d : Device) (r : RingId) : CRingId := if r = 0 then .c0 else d.rings[r].bound

/-- Free a slot (R51). -/
def Device.freeSlot (d : Device) (a : Slot) : Device := d.setSlot a none

/-- Append a slot to an answer queue (R158). -/
def Device.pushAnswer (d : Device) (c : CRingId) (a : Slot) : Device :=
  d.setCRing c { d.cring c with queue := (d.cring c).queue ++ [a] }

/-- Answer the entry in slot `a`: STATUS, DETAIL and decision time are set, its Timing List entry is withdrawn, and
it joins the end of its completion ring's answer queue, or is freed when that ring is FAULTED (R42, R51, R158). -/
def Device.answer (d : Device) (a : Slot) (status : Status) (detail : Word) : Device :=
  match d.slots[a] with
  | none => d
  | some e =>
    if (d.cring (d.binding e.ring)).state == .faulted then (d.withdraw a).freeSlot a
    else ((d.withdraw a).setSlot a (some { e with st := .answered ⟨status, detail, d.now⟩ })).pushAnswer
      (d.binding e.ring) a

/-- Change the STATE of the entry in a slot. -/
def Device.setEntryState (d : Device) (a : Slot) (st : EntryState) : Device :=
  match d.slots[a] with
  | none => d
  | some e => d.setSlot a (some { e with st := st })

/-! ## Points (file 01) -/

/-- Readback runs in CONFIGURE, RUN and DRAINING (1.4). -/
def Device.readbackRuns (d : Device) : Bool :=
  d.dstate == .configure || d.dstate == .run || d.dstate == .draining

/-- A point with LEVEL set: a change opens or restarts the settle window while READBACK is on and PSTATE is NORMAL
(R15); setting the level it has changes nothing. -/
def Point.drive (p : Point) (now : Time) (level : Bool) : Point :=
  if p.level = level then p
  else
    { p with
      level := level
      window := if p.readback && p.pstate == .normal then some (now + settleTicks) else p.window }

/-- Set the LEVEL of a point (1.3). -/
def Device.driveLevel (d : Device) (p : PointId) (level : Bool) : Device :=
  d.setPoint p (d.points[p].drive d.now level)

/-- Set or clear the CLAIM of a point. -/
def Device.setClaim (d : Device) (p : PointId) (c : Option Slot) : Device :=
  d.setPoint p { d.points[p] with claim := c }

/-- Cancel the claim on a point: CLAIM becomes none, and the claiming entry's timer is withdrawn and it is answered
with the cancelling status and DETAIL 0 (R8). -/
def Device.cancelClaim (d : Device) (p : PointId) (status : Status) : Device :=
  match d.points[p].claim with
  | none => d
  | some a => (d.setClaim p none).answer a status 0

/-- Every point driven OFF, HELD points included (R20, R181). -/
def Device.allOff (d : Device) : Device := { d with points := d.points.map (fun p => p.drive d.now false) }

/-- A point fault (R17): FAULTED, window closed, LEVEL forced OFF without a window, the claim cancelled CXPTFLT,
ALERT.PTFLT set. -/
def Device.pointFault (d : Device) (p : PointId) : Device :=
  ((d.setPoint p { d.points[p] with pstate := .faulted, window := none, level := false }).cancelClaim p
    .cxptflt).raiseAlert alertPtflt

/-! ## Waits (2.8, 5.6, 6.4) -/

/-- Take a slot out of every wait list and every input's trigger waits; the others keep their order (R40). -/
def Device.unwait (d : Device) (a : Slot) : Device :=
  { d with
    inputs := d.inputs.map (fun i => { i with waits := i.waits.filter (· != a) })
    groups := d.groups.map (fun g => { g with waits := g.waits.filter (· != a) }) }

/-- Join the end of the wait list of group `g`. G0 has none (R79). -/
def Device.joinGate (d : Device) (g : Fin 8) (a : Slot) : Device :=
  if h : g = 0 then d
  else d.setGroup (g.pred h) { d.groups[g.pred h] with waits := d.groups[g.pred h].waits ++ [a] }

/-- Join the end of the trigger waits of input `i` (R107). -/
def Device.joinTrigger (d : Device) (i : InputId) (a : Slot) : Device :=
  d.setInput i { d.inputs[i] with waits := d.inputs[i].waits ++ [a] }

/-- Cancel a live action entry, TIMED or waiting, with a cancelling status (R8, R40): its claim, its Timing List entry
and its wait go, and it is answered. An entry already answered keeps its answer (R41). -/
def Device.cancelEntry (d : Device) (a : Slot) (status : Status) : Device :=
  match d.slots[a] with
  | none => d
  | some e =>
    if e.isLive then
      ((if d.points[pointOf e.record].claim = some a then d.setClaim (pointOf e.record) none else d).unwait a).answer
        a status 0
    else d

/-- Cancel every live entry of ring `r`, in ascending slot order (R147, R150). -/
def Device.cancelRing (d : Device) (r : RingId) (status : Status) : Device :=
  allSlots.foldl (fun d a => if isLiveOf r d.slots[a] then d.cancelEntry a status else d) d

/-- Cancel every live action entry, in ascending slot order (R181). -/
def Device.cancelActions (d : Device) (status : Status) : Device :=
  (poolSlots 1).foldl (fun d a => d.cancelEntry a status) d

/-- Drop the prefetch buffer of a ring and mark its read in flight discard (R146). -/
def Device.dropBuffer (d : Device) (r : RingId) : Device :=
  { d.setRing r { d.rings[r] with buf := [] } with
    channel := d.channel.map (fun op => if op.ring = r then { op with discard := true } else op) }

/-! ## Gates (R84) -/

/-- The gate of group `g` reads OPEN: G0 in RUN alone, the others as they stand. -/
def Device.gateOpen (d : Device) (g : Fin 8) : Bool :=
  if h : g = 0 then d.dstate == .run else d.groups[g.pred h].gate

/-- Every gate of G1 to G7 CLOSED without closure effects (R97). -/
def Device.closeGates (d : Device) : Device := { d with groups := d.groups.map (fun g => { g with gate := false }) }

/-! ## Supervision (file 08) -/

/-- The countdown restarted at the full interval, SUPV as given (R126, R128). -/
def Device.armCountdown (d : Device) (supv : Supv) : Device :=
  { d with
    sup := { d.sup with
      supv := supv
      countdown := some (d.now + BitVec.ofNat 32 (d.sup.interval.toNat * ticksPerMs)) } }

/-- SUPV OFF and the countdown stopped (R124, R132). -/
def Device.stopSupervision (d : Device) : Device := { d with sup := { d.sup with supv := .off, countdown := none } }

/-- SUPV OK with the countdown running when INTERVAL is above 0; OFF with it stopped otherwise (R126, R130). -/
def Device.startSupervision (d : Device) : Device :=
  if d.sup.interval = 0 then d.stopSupervision else d.armCountdown .ok

/-- SUPOK is true: SUPV is OK or OFF (R80). -/
def Device.supok (d : Device) : Bool := d.sup.supv != .lapsed

end Sys2Proof.Machine
end

