-- ==== Sys2Proof/Machine/Stage.lean ====
section
/-! DEFINITION. The action stage (1.2, 1.3): the fault, gate and claim checks and the effect of each kind. -/

namespace Sys2Proof.Machine

/-- A timed kind begins: its deadline is withdrawn, the entry is TIMED, its point is claimed, and an OUTPUT_TIMER is
inserted due at now + d (R4, R10 to R12, R68). -/
def Device.beginTimed (d : Device) (a : Slot) (e : Entry) (blink : Option Blink) : Device :=
  (((d.withdraw a).setEntryState a (.timed blink)).setClaim (pointOf e.record) (some a)).addTimer
    ⟨a, .outputTimer, d.now + durationOf e.record⟩

/-- SET (R9). -/
def Device.effectSet (d : Device) (a : Slot) (e : Entry) : Device :=
  (d.driveLevel (pointOf e.record) true).answer a .done 0

/-- CLEAR (R9). -/
def Device.effectClear (d : Device) (a : Slot) (e : Entry) : Device :=
  (d.driveLevel (pointOf e.record) false).answer a .done 0

/-- PULSE (R10). -/
def Device.effectPulse (d : Device) (a : Slot) (e : Entry) : Device :=
  (d.driveLevel (pointOf e.record) true).beginTimed a e none

/-- DELAY_SET and DELAY_CLEAR leave LEVEL as it is (R11). -/
def Device.effectDelay (d : Device) (a : Slot) (e : Entry) : Device := d.beginTimed a e none

/-- BLINK: phase ON, CYCLES cycles remaining (R12). -/
def Device.effectBlink (d : Device) (a : Slot) (e : Entry) : Device :=
  (d.driveLevel (pointOf e.record) true).beginTimed a e (some ⟨true, cyclesOf e.record⟩)

/-- The effect of the record's kind (R9 to R12). NOTE and KEEPALIVE never enter the action stage. -/
def Device.effect (d : Device) (a : Slot) (e : Entry) : Device :=
  match actionKindOf e.record with
  | some .set => d.effectSet a e
  | some .clear => d.effectClear a e
  | some .pulse => d.effectPulse a e
  | some .delaySet => d.effectDelay a e
  | some .delayClear => d.effectDelay a e
  | some .blink => d.effectBlink a e
  | some .note | some .keepalive | none => d

/-- The kind of a record is an on-effect (R21). -/
def recordOnEffect (r : RawRecord) : Bool :=
  match actionKindOf r with
  | some k => isOnEffect k
  | none => false

/-- The claim check (R7) and then the effect. -/
def Device.claimCheck (d : Device) (a : Slot) (e : Entry) : Device :=
  match d.points[pointOf e.record].claim with
  | none => d.effect a e
  | some _ =>
    if supersedeOf e.record then (d.cancelClaim (pointOf e.record) .cxsuper).effect a e
    else d.answer a .busy 0

/-- The gate check (R6) and then the claim check: an on-effect that meets a CLOSED gate waits with WAITGATE, its
deadline kept, and is answered GATED without. -/
def Device.gateCheck (d : Device) (a : Slot) (e : Entry) : Device :=
  if recordOnEffect e.record && !d.gateOpen d.points[pointOf e.record].group then
    if waitGateOf e.record then (d.setEntryState a .gateWait).joinGate d.points[pointOf e.record].group a
    else d.answer a .gated (BitVec.ofNat 32 d.points[pointOf e.record].group.val)
  else d.claimCheck a e

/-- The action stage of the entry in slot `a` (R4): the fault check (R5), the gate check, the claim check, the effect.
Ending in ANSWER_PENDING or TIMED withdraws the deadline; ending in GATE_WAIT keeps it. -/
def Device.actionStage (d : Device) (a : Slot) : Device :=
  match d.slots[a] with
  | none => d
  | some e =>
    if d.points[pointOf e.record].pstate == .faulted then d.answer a .ptflt 0
    else d.gateCheck a e

end Sys2Proof.Machine
end

