-- ==== Sys2Proof/Machine/Gates.lean ====
section
/-! DEFINITION. The Group Unit: expressions (5.2), the pass (R85), closure (R86, R87), opening and release (R89,
R90). -/

namespace Sys2Proof.Machine

/-- A literal's value (R80). An unused slot contributes nothing to its term. -/
def Device.literalTrue (d : Device) : Literal → Bool
  | .unused => true
  | .input i neg => d.inputs[i].qualified != neg
  | .gate g neg => d.gateOpen g != neg
  | .supok neg => d.supok != neg

/-- Term `t` of a group is true: every used literal in it is true (R81). -/
def Device.termTrue (d : Device) (g : Group) (t : Nat) : Bool :=
  (List.range 4).all (fun s => d.literalTrue (g.lits.toList.getD (4 * t + s) .unused))

/-- The value R81 gives for the gate of the group at place `k`: its expression is true and FORCE is clear. -/
def Device.groupValue (d : Device) (k : Fin 7) : Bool :=
  (List.range d.groups[k].terms).any (fun t => d.termTrue d.groups[k] t) && !d.groups[k].force

/-- The points of the group at place `k`, in ascending number. -/
def Device.groupPoints (d : Device) (k : Fin 7) : List PointId :=
  allPoints.filter (fun p => d.points[p].group == k.succ)

/-- A closure's drive of one point: PLAIN points go OFF (R87), and the change of LEVEL opens or restarts the settle
window (R15). A window end or a sense change at the same tick is then taken as R16 says of a LEVEL change taken first
(log 17). -/
def Device.closePoint (d : Device) (p : PointId) : Device :=
  if d.points[p].mode == .plain then d.driveLevel p false else d

/-- The closure of the group at place `k`: its claims cancelled CXLOCK in ascending point number (R86), then its PLAIN
points driven OFF (R87). The wait list is not touched. -/
def Device.closeGroup (d : Device) (k : Fin 7) : Device :=
  (d.groupPoints k).foldl Device.closePoint
    ((d.groupPoints k).foldl (fun d p => d.cancelClaim p .cxlock)
      (d.setGroup k { d.groups[k] with gate := false }))

/-- The release of a list of slots, oldest first: each entry's deadline is withdrawn and it runs the action stage
(R90). -/
def Device.releaseAll (d : Device) (slots : List Slot) : Device :=
  slots.foldl (fun d a => (d.withdraw a).actionStage a) d

/-- The opening of the group at place `k`: the gate is OPEN, the wait list is emptied and released (R89, R90). -/
def Device.openGroup (d : Device) (k : Fin 7) : Device :=
  (d.setGroup k { d.groups[k] with gate := true, waits := [] }).releaseAll d.groups[k].waits

/-- A group's turn in a pass (R85). -/
def Device.passTurn (d : Device) (k : Fin 7) : Device :=
  if d.groupValue k = d.groups[k].gate then d
  else if d.groupValue k then d.openGroup k
  else d.closeGroup k

/-- A pass: G1, then G2, and so on to G7, each once (R85). No pass is made outside RUN (R84). -/
def Device.pass (d : Device) : Device := if d.dstate == .run then (List.finRange 7).foldl Device.passTurn d else d

/-- A literal names input `i`. -/
def namesInput (i : InputId) : Literal → Bool
  | .input j _ => j == i
  | .unused | .gate _ _ | .supok _ => false

/-- Input `i` is named by at least one used literal of G1 to G7 (R106). -/
def Device.inputNamed (d : Device) (i : InputId) : Bool :=
  d.groups.toList.any (fun g => g.lits.toList.any (namesInput i))

end Sys2Proof.Machine
end

