-- ==== Sys2Proof/Machine/Bus.lean ====
section
/-! DEFINITION. The bus-master side shared by every event: ring faults (R147), the halt (R184), the ends of admin
operations (R151, R182), the fault of C1 (R162), the issue of completion writes (R159), the read grant (R142), and
what closes every event. -/

namespace Sys2Proof.Machine

/-- Bus-master work is done in CONFIGURE, RUN and DRAINING (R141 for ring 0, R159). -/
def Device.operational (d : Device) : Bool :=
  d.dstate == .configure || d.dstate == .run || d.dstate == .draining

/-! ## Ring faults (9.5) -/

/-- A fault of action ring `r` with a cause: only an ACTIVE ring faults (R147, R148). -/
def Device.ringFault (d : Device) (r : RingId) (cause : FaultCause) : Device :=
  if r != 0 && d.rings[r].state == .active then
    (((d.setRing r { d.rings[r] with state := .faulted, cause := cause }).dropBuffer r).cancelRing r .cxrflt).raiseAlert
      (alertRingflt r)
  else d

/-! ## Halt (11.5) -/

/-- A point at the entry into HALTED: OFF, unclaimed, window closed; its configuration and PSTATE are kept (R20). -/
def Point.atHalt (p : Point) : Point := { p with level := false, claim := none, window := none }

/-- A completion ring at the entry into HALTED: no queue, no write followed, cause clear, countdown stopped; producer,
consumer and phase are kept (R170). -/
def CRing.atHalt (c : CRing) : CRing := { c with queue := [], inflight := none, ic := false, countdown := none }

/-- The entry into HALTED with a reason (R183, R184, R59). C0 does not stay ACTIVE after a halt (R156, log 6). -/
def Device.halt (d : Device) (reason : HReason) : Device :=
  { d with
    dstate := .halted
    hreason := reason
    alert := d.alert ||| alertHalt
    bootRead := none
    snapWrite := none
    timing := []
    slots := Vector.replicate 64 none
    points := d.points.map Point.atHalt
    groups := d.groups.map (fun g => { g with gate := false, waits := [] })
    inputs := d.inputs.map (fun i => { i with waits := [] })
    sup := { d.sup with supv := .off, countdown := none }
    rings := d.rings.map (fun r => { r with buf := [] })
    channel := d.channel.map (fun op => { op with discard := true })
    c0 := { d.c0.atHalt with state := .disabled }
    c1 := d.c1.atHalt }

/-- A halt that the bus-master side finds, ARINGFLT or C0FLT: it can occur in CONFIGURE, RUN and DRAINING (R183). -/
def Device.haltFromBus (d : Device) (reason : HReason) : Device := if d.operational then d.halt reason else d

/-! ## Ends of admin operations (3.3, R50) -/

/-- The state in which a ring reset ends (R151): DISABLED with DISABLE set; otherwise ACTIVE, or FAULTED when the bound
completion ring is FAULTED. -/
def resetEndState (disable bindingFaulted : Bool) : RingState :=
  if disable then .disabled else if bindingFaulted then .faulted else .active

/-- The end of the RING_RESET in slot `a`, when its ring is RESETTING and holds no entries (R151). -/
def Device.endReset (d : Device) (a : Slot) (record : RawRecord) : Device :=
  let r := ringNumberOf record
  if d.rings[r].state == .resetting && d.held r == 0 then
    let st := resetEndState (disableOf record) ((d.cring d.rings[r].bound).state == .faulted)
    let d := d.setRing r
      { d.rings[r] with tail := 0, producer := 0, state := st, cause := if st = .faulted then .cqflt else .none }
    (if st = .faulted then d.raiseAlert (alertRingflt r) else d).answer a .done 0
  else d

/-- The end of the drain of the ENTER_CONFIGURE in slot `a`, when no action entry remains (R182). Every point is
driven OFF in the event that enters CONFIGURE (R172); each is OFF already. -/
def Device.endDrain (d : Device) (a : Slot) : Device :=
  if d.dstate == .draining && d.actionPoolEmpty then
    ({ d.allOff with dstate := .configure } : Device).answer a .done 0
  else d

/-- What the ADMIN_ACTIVE entry waits for is looked at in the event that may bring it (R50). -/
def Device.endOps (d : Device) : Device :=
  match d.adminActive? with
  | none => d
  | some a =>
    match d.slots[a] with
    | none => d
    | some e =>
      match adminKindOf e.record with
      | some .ringReset => d.endReset a e.record
      | some .enterConfigure => d.endDrain a
      | _ => d

/-! ## Completion writes (10.3, 10.4) -/

/-- The unconsumed count of a completion ring (10.1). -/
def CRing.unconsumed (c : CRing) : Nat := indexSub c.producer c.consumer c.size

/-- Room is present (10.1). -/
def CRing.hasRoom (c : CRing) : Bool := decide (c.unconsumed < c.size - 1)

/-- The fault of C1 (R162): C1 is FAULTED and its queue freed, ALERT.C1FLT is set, every ACTIVE ring bound to C1
faults CQFLT in ascending number, and an admin operation that waited for its entries ends. -/
def Device.faultC1 (d : Device) : Device :=
  ((actionRings.foldl (fun d r => if d.rings[r].bound = .c1 then d.ringFault r .cqflt else d)
    ((d.c1.queue.foldl Device.freeSlot
      { d with c1 := { d.c1 with state := .faulted, inflight := none, queue := [], ic := false, countdown := none } }
      ).raiseAlert alertC1flt))).endOps

/-- A completion write fails: C0's halts the device, C1's faults C1 (R162). -/
def Device.failCompletion (d : Device) (c : CRingId) : Device :=
  match c with
  | .c0 => d.haltFromBus .c0flt
  | .c1 => d.faultC1

/-- The answered entry at the head of a completion ring's queue. -/
def Device.queueHead (d : Device) (c : CRingId) : Option (Entry × Answer) :=
  match (d.cring c).queue with
  | [] => none
  | a :: _ =>
    match d.slots[a] with
    | some e =>
      match e.st with
      | .answered ans => some (e, ans)
      | _ => none
    | none => none

/-- The write R159 and R160 form for an answered entry. -/
def Device.formWrite (d : Device) (c : CRingId) (e : Entry) (ans : Answer) : CWrite :=
  { pos := (d.cring c).producer
    addr := (d.cring c).base + BitVec.ofNat 64 (16 * (d.cring c).producer)
    record := completionRecord e ans d.rings[e.ring].tail (d.cring c).phase }

/-- The conditions of R159 for issuing a write, but for the queue. -/
def Device.mayIssue (d : Device) (c : CRingId) : Bool :=
  (d.cring c).state == .active && d.operational && (d.cring c).inflight.isNone && (d.cring c).hasRoom

/-- Issue the write of the head answer of a completion ring when R159's conditions hold; it fails in this event when
it cannot be issued (R162). -/
def Device.issue (d : Device) (c : CRingId) : Device :=
  match d.queueHead c with
  | none => d
  | some (e, ans) =>
    if d.mayIssue c then
      if d.busReady then d.setCRing c { d.cring c with inflight := some (d.formWrite c e ans) }
      else d.failCompletion c
    else d

/-! ## Fetch (9.4) -/

/-- Available: the records the host has placed ahead of the tail (R134). -/
def Ring.available (r : Ring) : Nat := indexSub r.producer r.tail r.size

/-- The position a read of the ring starts at (R143). -/
def Ring.nextFetch (r : Ring) : Nat := (r.tail + r.buf.length) % r.size

/-- The records a grant reads: the smallest of the room in the buffer, the unfetched count, and the positions to the
end of the ring (R143). -/
def Ring.grantCount (r : Ring) : Nat :=
  min (min (bufferDepth - r.buf.length) (r.available - r.buf.length)) (r.size - r.nextFetch)

/-- The channel carries a read of ring `r` that is not marked discard. -/
def Device.inFlightCount (d : Device) (r : RingId) : Nat :=
  match d.channel with
  | some op => if op.ring = r && !op.discard then op.count else 0
  | none => 0

/-- The device state permits fetching the ring (R141). -/
def Device.fetchState (d : Device) (r : RingId) : Bool := if r = 0 then d.operational else d.dstate == .run

/-- The ring requests the read channel (R141), which is idle: it then has no read in flight. -/
def Device.requests (d : Device) (r : RingId) : Bool :=
  d.fetchState r && d.rings[r].state == .active && decide (d.rings[r].buf.length < d.rings[r].available) &&
    decide (d.rings[r].buf.length < bufferDepth)

/-- The order of turns after the last granted action ring (R142). -/
def turnOrder (last : RingId) : List RingId :=
  match last.val with
  | 1 => [2, 3, 4, 1]
  | 2 => [3, 4, 1, 2]
  | 3 => [4, 1, 2, 3]
  | _ => [1, 2, 3, 4]

/-- The ring the arbiter grants: ring 0 first, otherwise the first requesting action ring in turn (R142). -/
def Device.arbiter (d : Device) : Option RingId := (0 :: turnOrder d.lastGrant).find? (fun r => d.requests r)

/-- A failed read that is not marked discard: ring 0's halts the device, an action ring faults FETCHFLT (R145). -/
def Device.readFailed (d : Device) (r : RingId) : Device :=
  if r = 0 then d.haltFromBus .aringflt else d.ringFault r .fetchflt

/-- The read a grant to ring `r` issues (R143). -/
def Device.readFor (d : Device) (r : RingId) : ReadOp :=
  { ring := r, first := d.rings[r].nextFetch, count := d.rings[r].grantCount
    addr := d.rings[r].base + BitVec.ofNat 64 (32 * d.rings[r].nextFetch)
    length := 32 * d.rings[r].grantCount, discard := false, issued := d.now }

/-- The arbiter's grant when the channel is idle (R142): a read that cannot be issued fails in this event (R145). -/
def Device.grant (d : Device) : Device :=
  match d.channel with
  | some _ => d
  | none =>
    match d.arbiter with
    | none => d
    | some r =>
      if d.busReady then
        { d with channel := some (d.readFor r), lastGrant := if r = 0 then d.lastGrant else r }
      else ({ d with lastGrant := if r = 0 then d.lastGrant else r } : Device).readFailed r

/-! ## What closes every event -/

/-- The completion writes and the read that the present state lets the block issue, each once. -/
def Device.service (d : Device) : Device := ((d.issue .c1).issue .c0).grant

/-- Rounds of service. -/
def Device.serviceRounds : Nat → Device → Device
  | 0, d => d
  | n + 1, d => Device.serviceRounds n d.service

/-- Issue what can be issued. While the bus is ready one round is enough; while it is not, each attempt fails in the
event and may bring the next (four ring faults, C1's fault and the halt at most), so six rounds are made (log 7). -/
def Device.settle (d : Device) : Device := if d.busReady then d.service else d.serviceRounds 6

/-- One event: its own effect, then what can be issued in it, then the interrupt request's rise (R159, R142, R169). -/
def Device.event (d : Device) (f : Device → Device) : Device := (f d).settle.signalRise d false

end Sys2Proof.Machine
end

