-- ==== Sys2Proof/Machine/Formats.lean ====
section
/-! DEFINITION. The images the block builds: the configuration serialization and its digest (11.7, 12.6), and the
snapshot (11.6, 12.5). -/

namespace Sys2Proof.Machine

/-! ## The digest (R188, R193) -/

/-- One bit of the reflected CRC-32. -/
def crcBit (c : Word) : Word := if c.getLsbD 0 then (c >>> 1) ^^^ 0xEDB88320 else c >>> 1

/-- One byte, least significant bit first. -/
def crcByte (c : Word) (b : Byte) : Word :=
  crcBit (crcBit (crcBit (crcBit (crcBit (crcBit (crcBit (crcBit (c ^^^ b.setWidth 32))))))))

/-- CRC-32: initial value and final exclusive-or FFFFFFFFh. -/
def crc32 (bytes : List Byte) : Word := bytes.foldl crcByte 0xFFFFFFFF ^^^ 0xFFFFFFFF

/-- A flag as a byte, 0 or 1. -/
def flagByte (b : Bool) : Byte := if b then 1 else 0

/-- A point's byte: bits 0 to 2 GROUP, bit 4 MODE, bit 5 READBACK (12.6). -/
def pointConfigByte (p : Point) : Byte :=
  BitVec.ofNat 8 (p.group.val + (if p.mode = .held then 0x10 else 0) + (if p.readback then 0x20 else 0))

/-- An input's two bytes (12.6). -/
def inputConfigBytes (i : Input) : List Byte := [i.debounce, flagByte i.invert]

/-- A zone's eight bytes (12.6). -/
def zoneConfigBytes (z : Zone) : List Byte :=
  [flagByte z.en, BitVec.ofNat 8 z.base, BitVec.ofNat 8 z.size, z.rings.setWidth 8, flagByte z.onok, flagByte z.offok,
    0, 0]

/-- A group's seventeen bytes (12.6). -/
def groupConfigBytes (g : Group) : List Byte := BitVec.ofNat 8 g.terms :: g.lits.toList.map literalByte

/-- The configuration serialization, 313 bytes (12.6). -/
def Device.serialization (d : Device) : List Byte :=
  d.points.toList.map pointConfigByte ++ d.inputs.toList.flatMap inputConfigBytes ++
    d.zones.toList.flatMap zoneConfigBytes ++ d.groups.toList.flatMap groupConfigBytes ++
    bytesOf 2 d.sup.interval.toNat

/-- The digest (R188). -/
def Device.digestValue (d : Device) : Word := crc32 d.serialization

/-! ## The snapshot (12.5) -/

/-- A point's byte: bit 0 LEVEL ON, bit 1 FAULTED, bit 2 claimed. -/
def pointSnapByte (p : Point) : Byte :=
  BitVec.ofNat 8 ((if p.level then 1 else 0) + (if p.pstate = .faulted then 2 else 0) + (if p.claim.isSome then 4 else 0))

/-- An input's two bytes: levels and pending transition, number of trigger waits. -/
def inputSnapBytes (i : Input) : List Byte :=
  [BitVec.ofNat 8 ((if i.qualified then 1 else 0) + (if i.raw then 2 else 0) + (if i.pendingSince.isSome then 4 else 0)),
    BitVec.ofNat 8 i.waits.length]

/-- A group's four bytes: GATE and FORCE, wait-list length. -/
def groupSnapBytes (g : Group) : List Byte :=
  [BitVec.ofNat 8 ((if g.gate then 1 else 0) + (if g.force then 2 else 0)), BitVec.ofNat 8 g.waits.length, 0, 0]

/-- A submission ring's eight bytes; ring 0's fault cause reads 0. -/
def Device.ringSnapBytes (d : Device) (r : RingId) : List Byte :=
  bytesOf 2 d.rings[r].tail ++ bytesOf 2 d.rings[r].producer ++
    [BitVec.ofNat 8 (ringStateCode d.rings[r].state + (if r = 0 then 0 else 16 * faultCauseCode d.rings[r].cause)),
      BitVec.ofNat 8 d.rings[r].buf.length, BitVec.ofNat 8 (d.held r), BitVec.ofNat 8 (d.liveCount r)]

/-- A completion ring's eight bytes. -/
def cringSnapBytes (c : CRing) : List Byte :=
  [BitVec.ofNat 8 (cringStateCode c.state),
    BitVec.ofNat 8 ((if c.phase then 1 else 0) + (if c.ic then 2 else 0) + (if c.inflight.isSome then 4 else 0))] ++
    bytesOf 2 c.producer ++ bytesOf 2 c.consumer ++ [BitVec.ofNat 8 c.queue.length, 0]

/-- Free slots of the pool of a ring. -/
def Device.freeSlots (d : Device) (r : RingId) : Nat := (poolSlots r).countP (fun a => d.slots[a].isNone)

/-- The countdown's due time, 0 while stopped (R133, R194). -/
def countdownField : Option Time → Nat
  | some t => t.toNat
  | none => 0

/-- The snapshot image, 256 bytes (R186, 12.5). -/
def Device.snapshotImage (d : Device) : List Byte :=
  bytesOf 4 d.now.toNat ++
  [BitVec.ofNat 8 (dstateCode d.dstate), BitVec.ofNat 8 (hreasonCode d.hreason), BitVec.ofNat 8 d.timing.length, 0] ++
  bytesOf 4 d.alert.toNat ++ List.replicate 4 0 ++
  d.points.toList.map pointSnapByte ++
  d.inputs.toList.flatMap inputSnapBytes ++
  d.groups.toList.flatMap groupSnapBytes ++
  [BitVec.ofNat 8 (supvCode d.sup.supv), 0] ++ bytesOf 2 d.sup.interval.toNat ++
  bytesOf 4 (countdownField d.sup.countdown) ++
  ((List.finRange 5).flatMap d.ringSnapBytes) ++
  [BitVec.ofNat 8 (d.freeSlots 1), BitVec.ofNat 8 (d.freeSlots 0), 0, 0] ++
  cringSnapBytes d.c0 ++ cringSnapBytes d.c1 ++ List.replicate 16 0

end Sys2Proof.Machine
end

