-- ==== Sys2Proof/Machine/Intake.lean ====
section
/-! DEFINITION. Taking a record (3.5), the zone check (file 07), and the intake of action records (2.4) and of admin
records (11.4). -/

namespace Sys2Proof.Machine

/-! ## Taking (R53) -/

/-- The device state in which records of the ring are taken (R53). -/
def Device.takeState (d : Device) (r : RingId) : Bool :=
  if r = 0 then d.dstate == .configure || d.dstate == .run else d.dstate == .run

/-- The conditions of R53 on the ring's head record, but for the free slot: quota and FENCE for an action ring (R56,
R57), the serial rule for ring 0 (R57). -/
def Device.ringMayTake (d : Device) (r : RingId) (head : RawRecord) : Bool :=
  d.takeState r && d.rings[r].state == .active &&
    (if r = 0 then d.adminActive?.isNone
     else decide (d.held r < d.rings[r].quota) && (!fenceOf head || d.liveCount r == 0))

/-- The taking event's own part: the slot is allocated and filled, the record leaves the buffer, and the tail advances
(R44, R45, R53). -/
def Device.takeHead (d : Device) (r : RingId) (a : Slot) (head : RawRecord) (rest : List RawRecord) : Device :=
  (d.setRing r { d.rings[r] with buf := rest, tail := (d.rings[r].tail + 1) % d.rings[r].size }).setSlot a
    (some { ring := r, pos := d.rings[r].tail, record := head, st := .intake })

/-- The head record of ring `r`, the rest of its buffer, and the slot it would receive, when R53 lets it be taken. -/
def Device.taken? (d : Device) (r : RingId) : Option (RawRecord × List RawRecord × Slot) :=
  match d.rings[r].buf, d.lowestFree r with
  | head :: rest, some a => if d.ringMayTake r head then some (head, rest, a) else none
  | _, _ => none

/-- A taking event of ring `r`, for a head record that `isKind` accepts: take it and run its intake. Where the record
cannot be taken the ring stalls, and nothing happens (R54, log 4). -/
def Device.taking (d : Device) (r : RingId) (isKind : RawRecord → Bool)
    (intake : Slot → RawRecord → Device → Device) : Device :=
  match d.taken? r with
  | some (head, rest, a) =>
    if isKind head then d.event (fun d => intake a head (d.takeHead r a head rest)) else d
  | none => d

/-! ## The zone check (7.2) -/

/-- Point `p` matches a zone (R118). -/
def Zone.covers (z : Zone) (p : PointId) : Bool := z.en && decide (z.base ≤ p.val) && decide (p.val < z.base + z.size)

/-- The governing zone: the lowest-numbered zone the point matches (R118). -/
def Device.governingZone (d : Device) (p : PointId) : Option Zone := d.zones.toList.find? (fun z => z.covers p)

/-- Ring `r` is in a zone's RINGS. -/
def Zone.lists (z : Zone) (r : RingId) : Bool := r != 0 && z.rings.getLsbD (r.val - 1)

/-- The Zone Table's answer (R119): none is granted, otherwise the refusing status. -/
def Device.zoneRefusal (d : Device) (r : RingId) (onEffect : Bool) (p : PointId) : Option Status :=
  match d.governingZone p with
  | none => some .nozone
  | some z => if z.lists r && (if onEffect then z.onok else z.offok) then none else some .denied

/-! ## Intake of action records (R31) -/

/-- A nonzero LIMIT inserts a DEADLINE due at intake time + LIMIT x LUNIT (R33). -/
def Device.addDeadline (d : Device) (a : Slot) (record : RawRecord) : Device :=
  if halfAt record 12 = 0 then d else d.addTimer ⟨a, .deadline, d.now + limitOf record⟩

/-- The entry enters TRIGGER_WAIT on input TRIGIN (R35, R36). -/
def Device.enterTriggerWait (d : Device) (a : Slot) (record : RawRecord) : Device :=
  (d.setEntryState a .triggerWait).joinTrigger (trigInOf record) a

/-- The intake of an output-kind record (R31): validation, the zone check, the deadline, and then the trigger wait or
the action stage. -/
def Device.intakeOutput (k : ActionKind) (r : RingId) (a : Slot) (record : RawRecord) (d : Device) : Device :=
  if validAction k record then
    match d.zoneRefusal r (isOnEffect k) (pointOf record) with
    | some status => d.answer a status 0
    | none =>
      if trigOf record then (d.addDeadline a record).enterTriggerWait a record
      else (d.addDeadline a record).actionStage a
  else d.answer a .badrec 0

/-- The intake of a NOTE (R35). -/
def Device.intakeNote (a : Slot) (record : RawRecord) (d : Device) : Device :=
  if validAction .note record then (d.addDeadline a record).enterTriggerWait a record
  else d.answer a .badrec 0

/-- The intake of a KEEPALIVE (R34). -/
def Device.intakeKeepalive (a : Slot) (record : RawRecord) (d : Device) : Device :=
  if validAction .keepalive record then
    match d.sup.supv with
    | .ok => (d.armCountdown .ok).answer a .done 0
    | .off => d.answer a .done 0
    | .lapsed => d.answer a .lapsed 0
  else d.answer a .badrec 0

/-- The intake of a record that is refused whatever it holds (R29, R179, R192). -/
def Device.intakeUnknown (a : Slot) (_record : RawRecord) (d : Device) : Device := d.answer a .badrec 0

/-- The head record is of action kind `k`. -/
def isActionKind (k : ActionKind) (r : RawRecord) : Bool := actionKindOf r == some k

/-- A taking of a record of an output kind from an action ring. -/
def Device.takeOutput (d : Device) (k : ActionKind) (r : RingId) : Device :=
  d.taking r (fun h => r != 0 && isActionKind k h) (Device.intakeOutput k r)

/-! ## Intake of admin records (R179) -/

/-- The head record is of admin kind `k`. -/
def isAdminKind (k : AdminKind) (r : RawRecord) : Bool := adminKindOf r == some k

/-- The permission table of 11.4: the kind is executed in the present device state. -/
def Device.adminPermitted (d : Device) : AdminKind → Bool
  | .configureRing | .configureCompletion | .definePoint | .defineInput | .defineZone | .defineGroup
  | .setSupervision | .enterRun => d.dstate == .configure
  | .enterConfigure | .restoreSupervision => d.dstate == .run
  | .forceGroup | .clearPointFault | .ringReset | .snapshot | .digest => d.dstate == .configure || d.dstate == .run

/-- A taking of an admin record of kind `k`, with what it does when its kind is permitted (R179): an ASTATE comes
before any look at its parameters. -/
def Device.takeAdmin (d : Device) (k : AdminKind) (execute : Slot → RawRecord → Device → Device) : Device :=
  d.taking 0 (isAdminKind k) (fun a record d =>
    if d.adminPermitted k then execute a record d else d.answer a .astate 0)

/-- A record whose own checks `ok` holds is carried out by `apply` and answered DONE; else it is answered BADREC. -/
def Device.checked (ok : RawRecord → Bool) (apply : RawRecord → Device → Device) (a : Slot) (record : RawRecord)
    (d : Device) : Device :=
  if ok record then (apply record d).answer a .done 0 else d.answer a .badrec 0

end Sys2Proof.Machine
end

