-- ==== Sys2Proof/Machine/HostWrites.lean ====
section
/-! DEFINITION. The resets (11.2), the boot's beginning (R177), and the host's register writes (9.3, 10.5, 11.8,
12.7); reading a register (R63, R189, R195). -/

namespace Sys2Proof.Machine

/-! ## Resets (R174) -/

/-- A reset of any kind: every block at its reset state, RCAUSE the cause; what comes from outside (sense lines, input
pins, the link) stands as it is (log 1). -/
def Device.applyReset (d : Device) (cause : RCause) : Device :=
  Device.afterReset cause (d.points.map Point.sense) (d.inputs.map Input.pin) d.link

/-- POWER_ON_RESET (R174). -/
def execPowerOnReset (s : State) : Host.Outcome State Fault Refusal := s.run (fun d => d.applyReset .powerOn)

/-- LINK_RESET (R174). -/
def execLinkReset (s : State) : Host.Outcome State Fault Refusal := s.run (fun d => d.applyReset .link)

/-! ## CONTROL (R176) and the beginning of a boot (R177) -/

/-- The address of the bootstrap block (R175). -/
def Device.bootAddress (d : Device) : Addr := d.bootHi ++ d.bootLo

/-- The event that begins a boot (R177): BOOTING, and BOOTBAD for a misaligned address; otherwise the boot read is
issued, or BOOTFLT when it cannot be. -/
def Device.beginBoot (d : Device) : Device :=
  if aligned64 d.bootAddress then
    if d.busReady then { d with dstate := .booting, bootRead := some ⟨d.bootAddress, d.now⟩ }
    else ({ d with dstate := .booting } : Device).halt .bootflt
  else ({ d with dstate := .booting } : Device).halt .bootbad

/-- The fields of a CONTROL write with RESET 0 (R176): they are stored, and ENABLE 1 in INIT begins a boot. -/
def Device.storeControl (v : Word) (d : Device) : Device :=
  if d.dstate == .init && v.getLsbD 0 then ({ d with control := v &&& controlStored } : Device).beginBoot
  else { d with control := v &&& controlStored }

/-- A CONTROL write (R176): RESET 1 is a control reset and stores nothing. -/
def Device.writeControl (d : Device) (v : Word) : Device :=
  if v.getLsbD 1 then d.applyReset .control else d.event (Device.storeControl v)

/-- CONTROL_RESET (R174, R176). -/
def execControlReset (v : Word) (s : State) : Host.Outcome State Fault Refusal := s.run (fun d => d.writeControl v)

/-- ENABLE (R176). -/
def execEnable (v : Word) (s : State) : Host.Outcome State Fault Refusal := s.run (fun d => d.writeControl v)

/-- IC0EN (R176). -/
def execIc0en (v : Word) (s : State) : Host.Outcome State Fault Refusal := s.run (fun d => d.writeControl v)

/-- IC1EN (R176). -/
def execIc1en (v : Word) (s : State) : Host.Outcome State Fault Refusal := s.run (fun d => d.writeControl v)

/-- ALERTEN (R176). -/
def execAlerten (v : Word) (s : State) : Host.Outcome State Fault Refusal := s.run (fun d => d.writeControl v)

/-! ## BOOT_LO and BOOT_HI (R175), ALERT (R190) -/

/-- A write of BOOT_LO or BOOT_HI: accepted in INIT, discarded elsewhere (R175). -/
def Device.writeBoot (d : Device) (half : BootHalf) (v : Word) : Device :=
  if d.dstate == .init then
    match half with
    | .lo => { d with bootLo := v }
    | .hi => { d with bootHi := v }
  else d

/-- BOOT_ADDRESS_WRITE (R175). -/
def execBootAddressWrite (half : BootHalf) (v : Word) (s : State) : Host.Outcome State Fault Refusal :=
  s.run (fun d => d.writeBoot half v)

/-- The causes a write to ALERT clears: those written as 1, but HALT in HALTED (R190). -/
def Device.alertCleared (d : Device) (v : Word) : Word := if d.dstate == .halted then v &&& ~~~alertHalt else v

/-- A write to ALERT (R190). -/
def Device.writeAlert (d : Device) (v : Word) : Device :=
  d.event (fun d => { d with alert := d.alert &&& ~~~(d.alertCleared v) })

/-- ALERT_WRITE (R190). -/
def execAlertWrite (v : Word) (s : State) : Host.Outcome State Fault Refusal := s.run (fun d => d.writeAlert v)

/-! ## PRODUCER (9.3) -/

/-- A discarded PRODUCER or CONSUMER write: BADIDX, but in HALTED (R138, R164). -/
def Device.discardIndex (d : Device) : Device := if d.dstate == .halted then d else d.raiseAlert alertBadidx

/-- The producer a write gives its ring, and what a read of PRODUCER then returns (9.3). -/
def Device.acceptProducer (d : Device) (r : RingId) (v : Word) : Device :=
  { d.setRing r { d.rings[r] with producer := indexField v } with producerReg := v }

/-- A PRODUCER write for an action ring (R138, R139). -/
def Device.producerAction (d : Device) (r : RingId) (v : Word) : Device :=
  if d.rings[r].state == .active then
    if d.rings[r].size ≤ indexField v then d.ringFault r .badprod
    else if indexSub (indexField v) d.rings[r].tail d.rings[r].size < d.rings[r].buf.length then d.ringFault r .regress
    else d.acceptProducer r v
  else d.discardIndex

/-- A PRODUCER write for ring 0 (R140). -/
def Device.producerAdmin (d : Device) (v : Word) : Device :=
  if d.rings[(0 : RingId)].size ≤ indexField v then d.discardIndex
  else if indexSub (indexField v) d.rings[(0 : RingId)].tail d.rings[(0 : RingId)].size <
      d.rings[(0 : RingId)].buf.length + d.inFlightCount 0 then d.discardIndex
  else d.acceptProducer 0 v

/-- The effect of a PRODUCER write: in HALTED discarded; reserved bits, a ring above 4, INIT and BOOTING discard it
with BADIDX (R138, R195); else it is checked for its ring. -/
def Device.producerEffect (v : Word) (d : Device) : Device :=
  if d.operational && indexReservedOk v && decide (ringField v ≤ 4) then
    if ringField v = 0 then d.producerAdmin v else d.producerAction (Fin.ofNat 5 (ringField v)) v
  else d.discardIndex

/-- PRODUCER_WRITE (R138 to R140). -/
def execProducerWrite (v : Word) (s : State) : Host.Outcome State Fault Refusal :=
  s.run (fun d => d.event (Device.producerEffect v))

/-! ## CONSUMER (10.5, 10.6) -/

/-- A CONSUMER write for completion ring `c` passes the checks of R164. -/
def Device.consumerOk (d : Device) (c : CRingId) (v : Word) : Bool :=
  (d.cring c).state == .active && decide (indexField v < (d.cring c).size) &&
    decide (indexSub (indexField v) (d.cring c).consumer (d.cring c).size ≤ (d.cring c).unconsumed)

/-- The acknowledgment of an accepted CONSUMER write (R168): ICn and the countdown set anew from the count. -/
def CRing.acknowledge (c : CRing) (now : Time) : CRing :=
  if c.thresh ≤ c.unconsumed then { c with ic := true, countdown := none }
  else if 0 < c.unconsumed && decide (0 < c.delay) then
    { c with ic := false, countdown := some (now + BitVec.ofNat 32 (c.delay * ticksPer100us)) }
  else { c with ic := false, countdown := none }

/-- An accepted CONSUMER write (R164). -/
def Device.acceptConsumer (d : Device) (c : CRingId) (v : Word) : Device :=
  { d.setCRing c (({ d.cring c with consumer := indexField v } : CRing).acknowledge d.now) with consumerReg := v }

/-- The completion ring whose consumer a CONSUMER write sets, when it is accepted (R164, R195). -/
def Device.consumerTarget (d : Device) (v : Word) : Option CRingId :=
  if d.operational && indexReservedOk v then
    match cringNumber (ringField v) with
    | some c => if d.consumerOk c v then some c else none
    | none => none
  else none

/-- The effect of a CONSUMER write. -/
def Device.consumerEffect (v : Word) (d : Device) : Device :=
  match d.consumerTarget v with
  | some c => d.acceptConsumer c v
  | none => d.discardIndex

/-- The interrupt enable of a completion ring's cause. -/
def Device.icEnabled (d : Device) : CRingId → Bool
  | .c0 => d.ic0en
  | .c1 => d.ic1en

/-- An accepted CONSUMER write cleared an enabled ICn and left it set again (R168, R169). ICn is read at the end of
the event (R169), so one that the event itself clears again, by the failure of a write it issues, is no further rise
(DESIGN CHOICE, log 19). -/
def Device.rearms (d after : Device) (v : Word) : Bool :=
  match d.consumerTarget v with
  | some c => (d.cring c).ic && (after.cring c).ic && after.icEnabled c
  | none => false

/-- A CONSUMER write as an event, with the further rise of R168. -/
def Device.writeConsumer (d : Device) (v : Word) : Device :=
  (d.consumerEffect v).settle.signalRise d (d.rearms (d.consumerEffect v).settle v)

/-- CONSUMER_WRITE (R164). -/
def execConsumerWrite (v : Word) (s : State) : Host.Outcome State Fault Refusal := s.run (fun d => d.writeConsumer v)

/-! ## Every other register write (R195) -/

/-- A host write of `width` bytes at an offset: a narrow write is discarded, and so is one to IDENT, STATUS, TIME or
an unassigned offset; a full write elsewhere is its register's (R195). A full write at an offset that is no multiple
of 4 is discarded like one to an unassigned offset (DESIGN CHOICE, log 18). -/
def Device.writeRegister (d : Device) (offset : BitVec 6) (width : Nat) (v : Word) : Device :=
  if width = 4 then
    match offset.toNat with
    | 0x04 => d.writeControl v
    | 0x0C => d.writeAlert v
    | 0x14 => d.writeBoot .lo v
    | 0x18 => d.writeBoot .hi v
    | 0x1C => d.event (Device.producerEffect v)
    | 0x20 => d.writeConsumer v
    | _ => d
  else d

/-- REGISTER_WRITE_OTHER (R195). -/
def execRegisterWriteOther (offset : BitVec 6) (width : Nat) (v : Word) (s : State) :
    Host.Outcome State Fault Refusal :=
  s.run (fun d => d.writeRegister offset width v)

/-! ## Reading a register (R189, R195): a read changes nothing -/

/-- STATUS (12.7). -/
def Device.statusWord (d : Device) : Word :=
  BitVec.ofNat 32 (dstateCode d.dstate + 0x10 * hreasonCode d.hreason + 0x100 * rcauseCode d.rcause +
    (if d.c0.ic then 0x1000 else 0) + (if d.c1.ic then 0x2000 else 0) + (if d.request then 0x8000 else 0))

/-- A 32-bit read of the register window (12.7). At an offset that is no multiple of 4 it returns 0, as at an
unassigned offset (DESIGN CHOICE, log 18). -/
def Device.readRegister (d : Device) (offset : BitVec 6) : Word :=
  match offset.toNat with
  | 0x00 => identWord
  | 0x04 => d.control
  | 0x08 => d.statusWord
  | 0x0C => d.alert
  | 0x10 => d.now
  | 0x14 => d.bootLo
  | 0x18 => d.bootHi
  | 0x1C => d.producerReg
  | 0x20 => d.consumerReg
  | _ => 0

/-- A read narrower than 32 bits returns the addressed bytes of the register (R195). Bytes past the register's own
four read 0 (DESIGN CHOICE, log 18). -/
def Device.readBytes (d : Device) (offset : BitVec 6) (width : Nat) : List Byte :=
  (List.range width).map (fun i =>
    byteAt (d.readRegister (BitVec.ofNat 6 (4 * (offset.toNat / 4)))) (offset.toNat % 4 + i))

end Sys2Proof.Machine
end

