-- ==== Sys2Proof/Machine/Boot.lean ====
section
/-! DEFINITION. The end of a boot (11.3). -/

namespace Sys2Proof.Machine

/-- Ring 0 after a boot (R136, R178). -/
def bootRing (b : BootBlock) (old : Ring) : Ring :=
  { old with
    state := .active, base := addrAt b 8, size := (halfAt b 16).toNat, bound := .c0, producer := 0, tail := 0,
    buf := [], cause := .none }

/-- C0 after a boot (R156, R178). -/
def bootCompletion (b : BootBlock) : CRing :=
  { state := .active, base := addrAt b 24, size := (halfAt b 32).toNat, producer := 0, consumer := 0, phase := true,
    thresh := (byteAt b 34).toNat, delay := (byteAt b 35).toNat, countdown := none, ic := false, queue := [],
    inflight := none }

/-- A block that passes its checks (R178). -/
def Device.bootSucceeds (d : Device) (b : BootBlock) : Device :=
  { d.setRing 0 (bootRing b d.rings[(0 : RingId)]) with
    dstate := .configure, bootRead := none, bootCopy := some b, c0 := bootCompletion b }

/-- The boot read in flight, in BOOTING. -/
def Device.booting? (d : Device) : Option BootRead := if d.dstate == .booting then d.bootRead else none

/-- The arrival of the boot read (R178). -/
def Device.bootArrival (d : Device) (b : BootBlock) : Device :=
  match d.booting? with
  | some _ => d.event (fun d => if bootBlockOk b then d.bootSucceeds b else d.halt .bootbad)
  | none => d

/-- BOOT_READ_ARRIVAL (R178). -/
def execBootReadArrival (b : BootBlock) (s : State) : Host.Outcome State Fault Refusal :=
  s.run (fun d => d.bootArrival b)

/-- A read issued at a time fails in this way now: a timeout only when 4 ms have passed (R145, R177). -/
def failsNow (now issued : Time) : ReadFault → Bool
  | .error => true
  | .timeout => timeReached now (issued + readTimeoutTicks)

/-- The failure of the boot read (R177). -/
def Device.bootFailure (d : Device) (how : ReadFault) : Device :=
  match d.booting? with
  | some op => if failsNow d.now op.issued how then d.event (fun d => d.halt .bootflt) else d
  | none => d

/-- BOOT_READ_FAILURE (R177). -/
def execBootReadFailure (how : ReadFault) (s : State) : Host.Outcome State Fault Refusal :=
  s.run (fun d => d.bootFailure how)

end Sys2Proof.Machine
end

