-- ==== Sys2Proof/Machine/Actions.lean ====
section
/-! DEFINITION. The takings of action records (file 02), and of records of no kind of their ring (R192). -/

namespace Sys2Proof.Machine

/-- SET (R9). -/
def execSet (r : RingId) (s : State) : Host.Outcome State Fault Refusal := s.run (fun d => d.takeOutput .set r)

/-- CLEAR (R9). -/
def execClear (r : RingId) (s : State) : Host.Outcome State Fault Refusal := s.run (fun d => d.takeOutput .clear r)

/-- PULSE (R10). -/
def execPulse (r : RingId) (s : State) : Host.Outcome State Fault Refusal := s.run (fun d => d.takeOutput .pulse r)

/-- DELAY_SET (R11). -/
def execDelaySet (r : RingId) (s : State) : Host.Outcome State Fault Refusal :=
  s.run (fun d => d.takeOutput .delaySet r)

/-- DELAY_CLEAR (R11). -/
def execDelayClear (r : RingId) (s : State) : Host.Outcome State Fault Refusal :=
  s.run (fun d => d.takeOutput .delayClear r)

/-- BLINK (R12). -/
def execBlink (r : RingId) (s : State) : Host.Outcome State Fault Refusal := s.run (fun d => d.takeOutput .blink r)

/-- NOTE (R35). -/
def execNote (r : RingId) (s : State) : Host.Outcome State Fault Refusal :=
  s.run (fun d => d.taking r (fun h => r != 0 && isActionKind .note h) Device.intakeNote)

/-- KEEPALIVE (R34). -/
def execKeepalive (r : RingId) (s : State) : Host.Outcome State Fault Refusal :=
  s.run (fun d => d.taking r (fun h => r != 0 && isActionKind .keepalive h) Device.intakeKeepalive)

/-- The head record's KIND names no kind of its ring's class (R192). -/
def isUnknownKind (r : RingId) (h : RawRecord) : Bool :=
  if r = 0 then (adminKindOf h).isNone else (actionKindOf h).isNone

/-- UNKNOWN_KIND (R192). -/
def execUnknownKind (r : RingId) (s : State) : Host.Outcome State Fault Refusal :=
  s.run (fun d => d.taking r (isUnknownKind r) Device.intakeUnknown)

end Sys2Proof.Machine
end

