-- ==== Sys2Proof/Machine/Admin.lean ====
section
/-! DEFINITION. The admin records (11.4) and the ends of the operations that take time. -/

namespace Sys2Proof.Machine

/-! ## CONFIGURE_RING (R137) -/

/-- The ring record CONFIGURE_RING gives. -/
def configuredRing (record : RawRecord) : Ring :=
  { state := .active, base := addrAt record 16, size := (halfAt record 8).toNat, bound := cringCodeOf (byteAt record 5),
    quota := (byteAt record 6).toNat, producer := 0, tail := 0, buf := [], cause := .none }

/-- The execution of CONFIGURE_RING: BADREC, ASTATE for a ring that is not DISABLED, or the new record. -/
def Device.doConfigureRing (a : Slot) (record : RawRecord) (d : Device) : Device :=
  if configureRingOk record then
    if d.rings[ringNumberOf record].state == .disabled then
      (d.setRing (ringNumberOf record) (configuredRing record)).answer a .done 0
    else d.answer a .astate 0
  else d.answer a .badrec 0

/-- CONFIGURE_RING (R137). -/
def execConfigureRing (s : State) : Host.Outcome State Fault Refusal :=
  s.run (fun d => d.takeAdmin .configureRing Device.doConfigureRing)

/-! ## CONFIGURE_COMPLETION (R157) -/

/-- C1 as CONFIGURE_COMPLETION gives it: ACTIVE and empty. -/
def configuredCompletion (record : RawRecord) : CRing :=
  { state := .active, base := addrAt record 16, size := (halfAt record 8).toNat, producer := 0, consumer := 0,
    phase := true, thresh := (byteAt record 5).toNat, delay := (byteAt record 6).toNat, countdown := none, ic := false,
    queue := [], inflight := none }

/-- C1 replaced (R157). -/
def Device.setC1 (record : RawRecord) (d : Device) : Device := { d with c1 := configuredCompletion record }

/-- CONFIGURE_COMPLETION (R157). -/
def execConfigureCompletion (s : State) : Host.Outcome State Fault Refusal :=
  s.run (fun d => d.takeAdmin .configureCompletion (Device.checked configureCompletionOk Device.setC1))

/-! ## DEFINE_POINT (R2), DEFINE_INPUT (R104), DEFINE_ZONE (R117), DEFINE_GROUP (R82), SET_SUPERVISION (R125) -/

/-- The settle window after DEFINE_POINT: opened when READBACK turns on at a NORMAL point, closed when it is off, left
as it is otherwise (R2). -/
def definedWindow (p : Point) (now : Time) (readback : Bool) : Option Time :=
  if readback then
    if !p.readback && p.pstate == .normal then some (now + settleTicks) else p.window
  else none

/-- The point record DEFINE_POINT gives (R2). -/
def definedPoint (p : Point) (now : Time) (record : RawRecord) : Point :=
  { p with
    group := Fin.ofNat 8 (byteAt record 5).toNat
    mode := if byteAt record 6 == 1 then .held else .plain
    readback := byteAt record 7 == 1
    window := definedWindow p now (byteAt record 7 == 1) }

/-- DEFINE_POINT's effect. -/
def Device.applyPoint (record : RawRecord) (d : Device) : Device :=
  d.setPoint (pointOf record) (definedPoint d.points[pointOf record] d.now record)

/-- DEFINE_POINT (R2). -/
def execDefinePoint (s : State) : Host.Outcome State Fault Refusal :=
  s.run (fun d => d.takeAdmin .definePoint (Device.checked definePointOk Device.applyPoint))

/-- The input record DEFINE_INPUT gives: the levels are restarted without an edge, the last capture time is kept
(R104). -/
def definedInput (i : Input) (record : RawRecord) : Input :=
  { i with
    debounce := byteAt record 5
    invert := byteAt record 6 == 1
    raw := i.pin != (byteAt record 6 == 1)
    qualified := i.pin != (byteAt record 6 == 1)
    pendingSince := none }

/-- The input an admin record names in byte 4. -/
def inputNumberOf (record : RawRecord) : InputId := Fin.ofNat 32 (byteAt record 4).toNat

/-- DEFINE_INPUT's effect. -/
def Device.applyInput (record : RawRecord) (d : Device) : Device :=
  d.setInput (inputNumberOf record) (definedInput d.inputs[inputNumberOf record] record)

/-- DEFINE_INPUT (R104). -/
def execDefineInput (s : State) : Host.Outcome State Fault Refusal :=
  s.run (fun d => d.takeAdmin .defineInput (Device.checked defineInputOk Device.applyInput))

/-- The zone an admin record names in byte 4. -/
def zoneNumberOf (record : RawRecord) : Fin 8 := Fin.ofNat 8 (byteAt record 4).toNat

/-- DEFINE_ZONE's effect. -/
def Device.applyZone (record : RawRecord) (d : Device) : Device :=
  { d with zones := d.zones.set (zoneNumberOf record) (zoneOf record) }

/-- DEFINE_ZONE (R117). -/
def execDefineZone (s : State) : Host.Outcome State Fault Refusal :=
  s.run (fun d => d.takeAdmin .defineZone (Device.checked defineZoneOk Device.applyZone))

/-- The expression DEFINE_GROUP gives; FORCE, GATE and the wait list are kept (R82). -/
def Device.applyGroup (record : RawRecord) (d : Device) : Device :=
  d.setGroup (groupIndexOf record)
    { d.groups[groupIndexOf record] with terms := (byteAt record 5).toNat, lits := groupLiterals record }

/-- The execution of DEFINE_GROUP: BADREC, AORDER, or the new expression (R82). -/
def Device.doDefineGroup (a : Slot) (record : RawRecord) (d : Device) : Device :=
  if defineGroupOk record then
    if gateOrderOk record then (d.applyGroup record).answer a .done 0 else d.answer a .aorder 0
  else d.answer a .badrec 0

/-- DEFINE_GROUP (R82). -/
def execDefineGroup (s : State) : Host.Outcome State Fault Refusal :=
  s.run (fun d => d.takeAdmin .defineGroup Device.doDefineGroup)

/-- SET_SUPERVISION's effect. -/
def Device.applyInterval (record : RawRecord) (d : Device) : Device :=
  { d with sup := { d.sup with interval := halfAt record 4 } }

/-- SET_SUPERVISION (R125). -/
def execSetSupervision (s : State) : Host.Outcome State Fault Refusal :=
  s.run (fun d => d.takeAdmin .setSupervision
    (Device.checked (adminReservedOk .setSupervision) Device.applyInterval))

/-! ## ENTER_RUN (R180) -/

/-- Every ACTIVE action ring is bound to an ACTIVE completion ring. -/
def Device.bindingsOk (d : Device) : Bool :=
  actionRings.all (fun r => d.rings[r].state != .active || (d.cring d.rings[r].bound).state == .active)

/-- Enabled zones overlap: the larger BASE is below the smaller end (R121). -/
def zonesOverlap (x y : Zone) : Bool :=
  x.en && y.en && decide (max x.base y.base < min (x.base + x.size) (y.base + y.size))

/-- The pairs (i, j) of zone numbers with i < j, by i and then by j (R121). -/
def zonePairs : List (Fin 8 × Fin 8) :=
  (List.finRange 8).flatMap (fun i => ((List.finRange 8).filter (fun j => decide (i < j))).map (fun j => (i, j)))

/-- The lowest overlapping pair of enabled zones (R121). -/
def Device.overlapPair (d : Device) : Option (Fin 8 × Fin 8) :=
  zonePairs.find? (fun p => zonesOverlap d.zones[p.1] d.zones[p.2])

/-- The overlap check of a record, made with STRICT set. -/
def Device.strictOverlap (d : Device) (record : RawRecord) : Option (Fin 8 × Fin 8) :=
  if strictOf record then d.overlapPair else none

/-- The digest check passes: it is made with DIGEST_PRESENT set. -/
def Device.digestOk (d : Device) (record : RawRecord) : Bool :=
  !digestPresentOf record || d.digestValue == expectedDigestOf record

/-- The entry into RUN: DSTATE, the Supervision Timer, and the pass from CLOSED (R84, R126, R180). -/
def Device.goRun (d : Device) : Device := (({ d with dstate := .run } : Device).startSupervision.closeGates).pass

/-- The execution of ENTER_RUN (R180). -/
def Device.doEnterRun (a : Slot) (record : RawRecord) (d : Device) : Device :=
  if enterRunOk record then
    if d.bindingsOk then
      match d.strictOverlap record with
      | some p => d.answer a .aovlp (BitVec.ofNat 32 (p.1.val + 256 * p.2.val))
      | none => if d.digestOk record then d.goRun.answer a .done 0 else d.answer a .adigest 0
    else d.answer a .acqnr 0
  else d.answer a .badrec 0

/-- ENTER_RUN (R180). -/
def execEnterRun (s : State) : Host.Outcome State Fault Refusal :=
  s.run (fun d => d.takeAdmin .enterRun Device.doEnterRun)

/-! ## ENTER_CONFIGURE and the drain (R181, R182) -/

/-- What R181 does in the starting event of the drain, in its order: buffers dropped, live action entries answered
CXMODE, every point OFF, supervision stopped, gates CLOSED. -/
def Device.cancelWork (d : Device) : Device :=
  ((actionRings.foldl Device.dropBuffer d).cancelActions .cxmode).allOff.stopSupervision.closeGates

/-- The starting event of the drain (R181): DRAINING. The Timing List and every wait are empty after it (R77, R97). -/
def Device.startDrain (d : Device) : Device :=
  let d := d.cancelWork
  { d with
    dstate := .draining
    timing := []
    groups := d.groups.map (fun g => { g with waits := [] })
    inputs := d.inputs.map (fun i => { i with waits := [] }) }

/-- The execution of ENTER_CONFIGURE: the drain starts, and ends at once when no action entry remains (R181). -/
def Device.doEnterConfigure (a : Slot) (record : RawRecord) (d : Device) : Device :=
  if adminReservedOk .enterConfigure record then (d.setEntryState a .adminActive).startDrain.endOps
  else d.answer a .badrec 0

/-- ENTER_CONFIGURE (R181). -/
def execEnterConfigure (s : State) : Host.Outcome State Fault Refusal :=
  s.run (fun d => d.takeAdmin .enterConfigure Device.doEnterConfigure)

/-- The ADMIN_ACTIVE operation is of kind `k`. -/
def Device.adminOp (d : Device) (k : AdminKind) : Bool :=
  match d.adminActive? with
  | some a =>
    match d.slots[a] with
    | some e => isAdminKind k e.record
    | none => false
  | none => false

/-- DRAIN_END (R182): the end of the drain when no action entry remains. The events that free the last entry make it
themselves. -/
def execDrainEnd (s : State) : Host.Outcome State Fault Refusal :=
  s.run (fun d => if d.adminOp .enterConfigure then d.event Device.endOps else d)

/-! ## FORCE_GROUP (R83), RESTORE_SUPERVISION (R130), CLEAR_POINT_FAULT (R19) -/

/-- FORCE set or cleared, and then the pass, which is made in RUN alone (R83, R84). -/
def Device.applyForce (record : RawRecord) (d : Device) : Device :=
  (d.setGroup (groupIndexOf record) { d.groups[groupIndexOf record] with force := byteAt record 5 == 1 }).pass

/-- FORCE_GROUP (R83). -/
def execForceGroup (s : State) : Host.Outcome State Fault Refusal :=
  s.run (fun d => d.takeAdmin .forceGroup (Device.checked forceGroupOk Device.applyForce))

/-- SUPV restored, and a pass when SUPV changed (R130). -/
def Device.applyRestore (_record : RawRecord) (d : Device) : Device :=
  if d.startSupervision.sup.supv = d.sup.supv then d.startSupervision else d.startSupervision.pass

/-- RESTORE_SUPERVISION (R130). -/
def execRestoreSupervision (s : State) : Host.Outcome State Fault Refusal :=
  s.run (fun d => d.takeAdmin .restoreSupervision
    (Device.checked (adminReservedOk .restoreSupervision) Device.applyRestore))

/-- A point after CLEAR_POINT_FAULT: NORMAL and OFF, a window open when READBACK is on, CLAIM not touched (R19). -/
def Point.faultCleared (p : Point) (now : Time) : Point :=
  { p with
    pstate := .normal
    level := false
    window := if p.readback then some (now + settleTicks) else p.window }

/-- CLEAR_POINT_FAULT's effect. -/
def Device.applyClearFault (record : RawRecord) (d : Device) : Device :=
  d.setPoint (pointOf record) (d.points[pointOf record].faultCleared d.now)

/-- CLEAR_POINT_FAULT (R19). -/
def execClearPointFault (s : State) : Host.Outcome State Fault Refusal :=
  s.run (fun d => d.takeAdmin .clearPointFault (Device.checked clearPointFaultOk Device.applyClearFault))

/-! ## RING_RESET (9.6) -/

/-- The beginning of a ring reset: RESETTING, the buffer dropped, live entries answered CXRESET (R150). -/
def Device.startReset (d : Device) (r : RingId) : Device :=
  ((d.setRing r { d.rings[r] with state := .resetting }).dropBuffer r).cancelRing r .cxreset

/-- The execution of RING_RESET: an ACTIVE or FAULTED ring is reset, and the reset ends at once when the ring holds no
entries (R150, R151). -/
def Device.doRingReset (a : Slot) (record : RawRecord) (d : Device) : Device :=
  if ringResetOk record then
    if d.rings[ringNumberOf record].state == .active || d.rings[ringNumberOf record].state == .faulted then
      ((d.setEntryState a .adminActive).startReset (ringNumberOf record)).endOps
    else d.answer a .astate 0
  else d.answer a .badrec 0

/-- RING_RESET (R150). -/
def execRingReset (s : State) : Host.Outcome State Fault Refusal :=
  s.run (fun d => d.takeAdmin .ringReset Device.doRingReset)

/-- RING_RESET_END (R151): the end of the reset when its ring holds no entries. The events that free the last entry
make it themselves. -/
def execRingResetEnd (s : State) : Host.Outcome State Fault Refusal :=
  s.run (fun d => if d.adminOp .ringReset then d.event Device.endOps else d)

/-! ## SNAPSHOT (11.6) and DIGEST (11.7) -/

/-- The execution of SNAPSHOT: ADMIN_ACTIVE, the image captured, its write issued, or ABUF when it cannot be (R186,
R187). -/
def Device.doSnapshot (a : Slot) (record : RawRecord) (d : Device) : Device :=
  if snapshotOk record then
    let d := d.setEntryState a .adminActive
    if d.busReady then { d with snapWrite := some ⟨addrAt record 8, d.snapshotImage⟩ } else d.answer a .abuf 0
  else d.answer a .badrec 0

/-- SNAPSHOT (R186). -/
def execSnapshot (s : State) : Host.Outcome State Fault Refusal :=
  s.run (fun d => d.takeAdmin .snapshot Device.doSnapshot)

/-- The end of the SNAPSHOT write in flight, answered with a status (R187). -/
def Device.endSnapshot (d : Device) (status : Status) : Device :=
  match d.snapWrite, d.adminActive? with
  | some _, some a => d.event (fun d => ({ d with snapWrite := none } : Device).answer a status 0)
  | _, _ => d

/-- SNAPSHOT_WRITE_ACCEPTED (R187). -/
def execSnapshotWriteAccepted (s : State) : Host.Outcome State Fault Refusal := s.run (fun d => d.endSnapshot .done)

/-- SNAPSHOT_WRITE_FAILED (R187). -/
def execSnapshotWriteFailed (s : State) : Host.Outcome State Fault Refusal := s.run (fun d => d.endSnapshot .abuf)

/-- The execution of DIGEST (R188). -/
def Device.doDigest (a : Slot) (record : RawRecord) (d : Device) : Device :=
  if adminReservedOk .digest record then d.answer a .done d.digestValue else d.answer a .badrec 0

/-- DIGEST (R188). -/
def execDigest (s : State) : Host.Outcome State Fault Refusal :=
  s.run (fun d => d.takeAdmin .digest Device.doDigest)

end Sys2Proof.Machine
end

