-- ==== Sys2Proof/Machine/Events.lean ====
section
/-! DEFINITION. The events of the timers (4.3), of the field (1.4, 6.2, 6.3), of supervision (8.2), of coalescing
(10.6) and of the bus (9.4, 10.3). -/

namespace Sys2Proof.Machine

/-! ## Expiries of the Timing List (R70) -/

/-- The first entry of the Timing List, when its due time is reached. Outside RUN no expiry takes place (R77). -/
def Device.dueTimer (d : Device) : Option (TimerEntry × List TimerEntry) :=
  match d.timing with
  | t :: rest => if timeReached d.now t.due && d.dstate == .run then some (t, rest) else none
  | [] => none

/-- A timed action ends (R10, R11, R13): LEVEL is set, the claim released and the entry answered DONE. -/
def Device.finishTimed (d : Device) (a : Slot) (e : Entry) (level : Bool) : Device :=
  ((d.driveLevel (pointOf e.record) level).setClaim (pointOf e.record) none).answer a .done 0

/-- A BLINK continues: its new phase and level, and an OUTPUT_TIMER due at the old due time + d (R13). -/
def Device.stepBlink (d : Device) (a : Slot) (e : Entry) (due : Time) (b : Blink) : Device :=
  ((d.driveLevel (pointOf e.record) b.phaseOn).setSlot a (some { e with st := .timed (some b) })).addTimer
    ⟨a, .outputTimer, due + durationOf e.record⟩

/-- The expiry of a BLINK's timer, by its phase (R13). -/
def Device.expireBlink (d : Device) (a : Slot) (e : Entry) (due : Time) (b : Blink) : Device :=
  if b.phaseOn then
    if b.remaining ≤ 1 then d.finishTimed a e false
    else d.stepBlink a e due ⟨false, b.remaining - 1⟩
  else d.stepBlink a e due ⟨true, b.remaining⟩

/-- The expiry of an OUTPUT_TIMER at its TIMED owner, by kind (R71). -/
def Device.expireOutput (d : Device) (a : Slot) (due : Time) : Device :=
  match d.slots[a] with
  | none => d
  | some e =>
    match e.st with
    | .timed blink =>
      match actionKindOf e.record, blink with
      | some .pulse, _ => d.finishTimed a e false
      | some .delaySet, _ => d.finishTimed a e true
      | some .delayClear, _ => d.finishTimed a e false
      | some .blink, some b => d.expireBlink a e due b
      | _, _ => d
    | _ => d

/-- OUTPUT_TIMER_EXPIRY (R71). -/
def execOutputTimerExpiry (s : State) : Host.Outcome State Fault Refusal :=
  s.run (fun d =>
    match d.dueTimer with
    | some (t, rest) =>
      if t.kind == .outputTimer then d.event (fun d => ({ d with timing := rest } : Device).expireOutput t.owner t.due)
      else d
    | none => d)

/-- The expiry of a DEADLINE: TRGTMO from TRIGGER_WAIT (R73), GATETMO with the group number from GATE_WAIT (R74). -/
def Device.expireDeadline (d : Device) (a : Slot) : Device :=
  match d.slots[a] with
  | none => d
  | some e =>
    match e.st with
    | .triggerWait => (d.unwait a).answer a .trgtmo 0
    | .gateWait => (d.unwait a).answer a .gatetmo (BitVec.ofNat 32 d.points[pointOf e.record].group.val)
    | _ => d

/-- DEADLINE_EXPIRY (R73, R74). -/
def execDeadlineExpiry (s : State) : Host.Outcome State Fault Refusal :=
  s.run (fun d =>
    match d.dueTimer with
    | some (t, rest) =>
      if t.kind == .deadline then d.event (fun d => ({ d with timing := rest } : Device).expireDeadline t.owner)
      else d
    | none => d)

/-! ## Readback (R16) -/

/-- The sense level of a point is compared with LEVEL and differs: a point with READBACK on and PSTATE NORMAL. -/
def Point.disagrees (p : Point) : Bool := p.readback && p.pstate == .normal && p.sense != p.level

/-- The end of a settle window (R16). One that a LEVEL change of the same tick has restarted is not compared (R16, log
17). -/
def Device.windowEnds (p : PointId) (d : Device) : Device :=
  if d.points[p].disagrees then d.pointFault p else d.setPoint p { d.points[p] with window := none }

/-- SETTLE_WINDOW_END (R16). -/
def execSettleWindowEnd (p : PointId) (s : State) : Host.Outcome State Fault Refusal :=
  s.run (fun d => if dueReached d.now d.points[p].window then d.event (Device.windowEnds p) else d)

/-- A change of the sense line (R16): compared when no window is open and readback runs (1.4). A window that a LEVEL
change of the same tick opened is open (R16, log 17). -/
def Device.senseChanges (p : PointId) (level : Bool) (d : Device) : Device :=
  let d := d.setPoint p { d.points[p] with sense := level }
  if d.points[p].disagrees && d.points[p].window.isNone && d.readbackRuns then d.pointFault p else d

/-- SENSE_CHANGE (R16). -/
def execSenseChange (p : PointId) (level : Bool) (s : State) : Host.Outcome State Fault Refusal :=
  s.run (fun d => if d.points[p].sense = level then d else d.event (Device.senseChanges p level))

/-! ## Inputs and edges (file 06) -/

/-- The debounce interval of an input in ticks (R65). -/
def Input.interval (i : Input) : Time := BitVec.ofNat 32 (i.debounce.toNat * ticksPerMs)

/-- An edge of direction `rise` releases a record whose EDGE matches (R108). -/
def edgeMatches (rise : Bool) : Edge → Bool
  | .rise => rise
  | .fall => !rise
  | .either => true
  | .none => false

/-- The slot holds an entry whose EDGE matches. -/
def slotMatches (rise : Bool) : Option Entry → Bool
  | some e => edgeMatches rise (edgeOf e.record)
  | none => false

/-- The release of one entry by an edge: a NOTE is answered DONE with the capture time (R109), an output-kind record
runs the action stage (R110). -/
def Device.releaseTrigger (capture : Time) (d : Device) (a : Slot) : Device :=
  match d.slots[a] with
  | none => d
  | some e =>
    if actionKindOf e.record == some .note then d.answer a .done capture else d.actionStage a

/-- Step 3 of the edge event (R108): the matching trigger waits are taken out of the list and released in its
order. -/
def Device.releaseTriggers (d : Device) (i : InputId) (rise : Bool) (capture : Time) : Device :=
  (d.inputs[i].waits.filter (fun a => slotMatches rise d.slots[a])).foldl (Device.releaseTrigger capture)
    (d.setInput i { d.inputs[i] with waits := d.inputs[i].waits.filter (fun a => !slotMatches rise d.slots[a]) })

/-- Step 1 of the edge event (R102, R106). -/
def Input.qualify (i : Input) (capture : Time) : Input :=
  { i with qualified := i.raw, pendingSince := none, capture := capture }

/-- The edge event of input `i` with its capture time (R105, R106): outside RUN step 1 alone. -/
def Device.edge (i : InputId) (capture : Time) (d : Device) : Device :=
  let d := d.setInput i (d.inputs[i].qualify capture)
  if d.dstate == .run then
    (if d.inputNamed i then d.pass else d).releaseTriggers i d.inputs[i].raw capture
  else d

/-- EDGE_EVENT (R102, R106). -/
def execEdgeEvent (i : InputId) (s : State) : Host.Outcome State Fault Refusal :=
  s.run (fun d =>
    match d.inputs[i].pendingSince with
    | some t => if timeReached d.now (t + d.inputs[i].interval) then d.event (Device.edge i t) else d
    | none => d)

/-- The sampled pin changes, and the raw level with it (R100). -/
def Input.sample (i : Input) : Input := { i with pin := !i.pin, raw := (!i.pin) != i.invert, moved := true }

/-- A raw transition (R100, R101): the pin and the raw level change; a level that differs from the qualified one
begins an interval, or is qualified at once with DEBOUNCE 0 (R102); one that equals it cancels the interval. -/
def Device.rawChange (i : InputId) (d : Device) : Device :=
  let d := d.setInput i d.inputs[i].sample
  if d.inputs[i].raw = d.inputs[i].qualified then d.setInput i { d.inputs[i] with pendingSince := none }
  else if d.inputs[i].debounce = 0 then d.edge i d.now
  else d.setInput i { d.inputs[i] with pendingSince := some d.now }

/-- RAW_TRANSITION (R101). The pin is sampled once per tick (R100), so a second transition at one tick is no event
(log 4). -/
def execRawTransition (i : InputId) (s : State) : Host.Outcome State Fault Refusal :=
  s.run (fun d => if d.inputs[i].moved then d else d.event (Device.rawChange i))

/-! ## Supervision (R127) -/

/-- The lapse: SUPV LAPSED with the countdown stopped, ALERT.SUPLAPSE, and a pass (R127). -/
def Device.lapse (d : Device) : Device :=
  (({ d with sup := { d.sup with supv := .lapsed, countdown := none } } : Device).raiseAlert alertSuplapse).pass

/-- The countdown's due time is reached while SUPV is OK (R127). -/
def Device.lapseDue (d : Device) : Bool := d.sup.supv == .ok && dueReached d.now d.sup.countdown

/-- SUPERVISION_LAPSE (R127). -/
def execSupervisionLapse (s : State) : Host.Outcome State Fault Refusal :=
  s.run (fun d => if d.lapseDue then d.event Device.lapse else d)

/-! ## Coalescing (10.6) -/

/-- The delay countdown expires: ICn is set and the countdown stopped (R167). -/
def Device.delayExpires (c : CRingId) (d : Device) : Device :=
  d.setCRing c { d.cring c with ic := true, countdown := none }

/-- COALESCING_DELAY_EXPIRY (R167). -/
def execCoalescingDelayExpiry (c : CRingId) (s : State) : Host.Outcome State Fault Refusal :=
  s.run (fun d => if dueReached d.now (d.cring c).countdown then d.event (Device.delayExpires c) else d)

/-! ## Completion writes (R161, R162) -/

/-- Coalescing after an accepted write (R166). -/
def CRing.coalesce (c : CRing) (now : Time) : CRing :=
  if c.ic then c
  else if c.thresh ≤ c.unconsumed then { c with ic := true, countdown := none }
  else if 0 < c.delay then
    match c.countdown with
    | some _ => c
    | none => { c with countdown := some (now + BitVec.ofNat 32 (c.delay * ticksPer100us)) }
  else c

/-- The ring after an accepted write: the producer advances, the phase flips at the wrap, the head leaves the queue,
and coalescing acts (R161). -/
def CRing.accepted (c : CRing) (now : Time) : CRing :=
  CRing.coalesce
    { c with
      producer := (c.producer + 1) % c.size
      phase := if (c.producer + 1) % c.size = 0 then !c.phase else c.phase
      queue := c.queue.tail
      inflight := none } now

/-- The slot at the head of an answer queue is freed (R161). -/
def Device.freeHead (d : Device) (c : CRingId) : Device :=
  match (d.cring c).queue with
  | [] => d
  | a :: _ => d.freeSlot a

/-- The acceptance of a completion write (R161): it may end a ring reset or the drain. -/
def Device.writeAccepted (c : CRingId) (d : Device) : Device :=
  ((d.freeHead c).setCRing c ((d.cring c).accepted d.now)).endOps

/-- COMPLETION_WRITE_ACCEPTED (R161). -/
def execCompletionWriteAccepted (c : CRingId) (s : State) : Host.Outcome State Fault Refusal :=
  s.run (fun d => if (d.cring c).inflight.isSome then d.event (Device.writeAccepted c) else d)

/-- COMPLETION_WRITE_FAILED (R162). -/
def execCompletionWriteFailed (c : CRingId) (s : State) : Host.Outcome State Fault Refusal :=
  s.run (fun d => if (d.cring c).inflight.isSome then d.event (fun d => d.failCompletion c) else d)

/-! ## Reads (R144, R145) -/

/-- The arrival of a read: dropped when it is marked discard; REGRESS when it reaches past the producer; otherwise its
records join the buffer (R144). -/
def Device.arrive (op : ReadOp) (records : List RawRecord) (d : Device) : Device :=
  let d := { d with channel := none }
  if op.discard then d
  else if d.rings[op.ring].available < d.rings[op.ring].buf.length + op.count then d.ringFault op.ring .regress
  else d.setRing op.ring { d.rings[op.ring] with buf := d.rings[op.ring].buf ++ records }

/-- READ_ARRIVAL (R144): the read in flight brings as many records as it asked for. -/
def execReadArrival (records : List RawRecord) (s : State) : Host.Outcome State Fault Refusal :=
  s.run (fun d =>
    match d.channel with
    | some op => if records.length = op.count then d.event (Device.arrive op records) else d
    | none => d)

/-- The failure of a read: no effect beyond its end when it is marked discard (R145). -/
def Device.failRead (op : ReadOp) (d : Device) : Device :=
  let d := { d with channel := none }
  if op.discard then d else d.readFailed op.ring

/-- READ_FAILURE (R145). -/
def execReadFailure (how : ReadFault) (s : State) : Host.Outcome State Fault Refusal :=
  s.run (fun d =>
    match d.channel with
    | some op => if failsNow d.now op.issued how then d.event (Device.failRead op) else d
    | none => d)

end Sys2Proof.Machine
end

