-- ==== Sys2Proof/Machine/Idle.lean ====
section
/-! DEFINITION. What the block does by itself when no command waits (log 3): the one event that is due now, in a fixed
order, or none. -/

namespace Sys2Proof.Machine

/-- The expiry of the first Timing List entry, when it is due (R70). -/
def Device.dueExpiry (d : Device) : Option Instr :=
  match d.dueTimer with
  | some (t, _) =>
    match t.kind with
    | .outputTimer => some .outputTimerExpiry
    | .deadline => some .deadlineExpiry
  | none => none

/-- A settle window whose end time is reached (R16). -/
def Device.dueWindow (d : Device) : Option Instr :=
  (allPoints.find? (fun p => dueReached d.now d.points[p].window)).map .settleWindowEnd

/-- A debounce interval that is complete (R102). -/
def Device.dueEdge (d : Device) : Option Instr :=
  ((List.finRange 32).find? (fun i =>
    dueReached d.now (d.inputs[i].pendingSince.map (· + d.inputs[i].interval)))).map .edgeEvent

/-- The supervision countdown's expiry (R127). -/
def Device.dueLapse (d : Device) : Option Instr := if d.lapseDue then some .supervisionLapse else none

/-- A coalescing delay's expiry (R167). -/
def Device.dueDelay (d : Device) : Option Instr :=
  ([CRingId.c0, CRingId.c1].find? (fun c => dueReached d.now (d.cring c).countdown)).map .coalescingDelayExpiry

/-- The 4 ms limit of the read in flight (R145) or of the boot read (R177). -/
def Device.dueTimeout (d : Device) : Option Instr :=
  if dueReached d.now (d.channel.map (fun op => op.issued + readTimeoutTicks)) then some (.readFailure .timeout)
  else if dueReached d.now (d.booting?.map (fun op => op.issued + readTimeoutTicks)) then
    some (.bootReadFailure .timeout)
  else none

/-- The taking command for a head record of an action ring. -/
def actionCommand (r : RingId) : Option ActionKind → Instr
  | some .set => .set r
  | some .clear => .clear r
  | some .pulse => .pulse r
  | some .delaySet => .delaySet r
  | some .delayClear => .delayClear r
  | some .blink => .blink r
  | some .note => .note r
  | some .keepalive => .keepalive r
  | none => .unknownKind r

/-- The taking command for a head record of ring 0. -/
def adminCommand : Option AdminKind → Instr
  | some .configureRing => .configureRing
  | some .configureCompletion => .configureCompletion
  | some .definePoint => .definePoint
  | some .defineInput => .defineInput
  | some .defineZone => .defineZone
  | some .defineGroup => .defineGroup
  | some .setSupervision => .setSupervision
  | some .enterRun => .enterRun
  | some .enterConfigure => .enterConfigure
  | some .forceGroup => .forceGroup
  | some .restoreSupervision => .restoreSupervision
  | some .clearPointFault => .clearPointFault
  | some .ringReset => .ringReset
  | some .snapshot => .snapshot
  | some .digest => .digest
  | none => .unknownKind 0

/-- The command that takes the head record of ring `r` (R53). -/
def takingCommand (r : RingId) (head : RawRecord) : Instr :=
  if r = 0 then adminCommand (adminKindOf head) else actionCommand r (actionKindOf head)

/-- A taking whose conditions hold (R53). -/
def Device.dueTaking (d : Device) : Option Instr :=
  (List.finRange 5).findSome? (fun r => (d.taken? r).map (fun t => takingCommand r t.1))

/-- The event that is due now and is taken next when no command waits. -/
def Device.dueCommand (d : Device) : Option Instr :=
  d.dueExpiry <|> d.dueWindow <|> d.dueEdge <|> d.dueLapse <|> d.dueDelay <|> d.dueTimeout <|> d.dueTaking

end Sys2Proof.Machine
end

