-- ==== Sys2Proof/Machine/Dispatch.lean ====
section
/-! DEFINITION. exec: one arm for each command, each a direct call of its meaning. -/

namespace Sys2Proof.Machine

def exec (i : Instr) (s : State) : Host.Outcome State Fault Refusal :=
  match i with
  | .powerOnReset => Sys2Proof.Machine.execPowerOnReset s
  | .linkReset => Sys2Proof.Machine.execLinkReset s
  | .controlReset v => Sys2Proof.Machine.execControlReset v s
  | .enable v => Sys2Proof.Machine.execEnable v s
  | .ic0en v => Sys2Proof.Machine.execIc0en v s
  | .ic1en v => Sys2Proof.Machine.execIc1en v s
  | .alerten v => Sys2Proof.Machine.execAlerten v s
  | .bootReadArrival b => Sys2Proof.Machine.execBootReadArrival b s
  | .bootReadFailure how => Sys2Proof.Machine.execBootReadFailure how s
  | .bootAddressWrite h v => Sys2Proof.Machine.execBootAddressWrite h v s
  | .alertWrite v => Sys2Proof.Machine.execAlertWrite v s
  | .producerWrite v => Sys2Proof.Machine.execProducerWrite v s
  | .consumerWrite v => Sys2Proof.Machine.execConsumerWrite v s
  | .registerWriteOther o w v => Sys2Proof.Machine.execRegisterWriteOther o w v s
  | .set r => Sys2Proof.Machine.execSet r s
  | .clear r => Sys2Proof.Machine.execClear r s
  | .pulse r => Sys2Proof.Machine.execPulse r s
  | .delaySet r => Sys2Proof.Machine.execDelaySet r s
  | .delayClear r => Sys2Proof.Machine.execDelayClear r s
  | .blink r => Sys2Proof.Machine.execBlink r s
  | .note r => Sys2Proof.Machine.execNote r s
  | .keepalive r => Sys2Proof.Machine.execKeepalive r s
  | .unknownKind r => Sys2Proof.Machine.execUnknownKind r s
  | .configureRing => Sys2Proof.Machine.execConfigureRing s
  | .configureCompletion => Sys2Proof.Machine.execConfigureCompletion s
  | .definePoint => Sys2Proof.Machine.execDefinePoint s
  | .defineInput => Sys2Proof.Machine.execDefineInput s
  | .defineZone => Sys2Proof.Machine.execDefineZone s
  | .defineGroup => Sys2Proof.Machine.execDefineGroup s
  | .setSupervision => Sys2Proof.Machine.execSetSupervision s
  | .enterRun => Sys2Proof.Machine.execEnterRun s
  | .enterConfigure => Sys2Proof.Machine.execEnterConfigure s
  | .drainEnd => Sys2Proof.Machine.execDrainEnd s
  | .forceGroup => Sys2Proof.Machine.execForceGroup s
  | .restoreSupervision => Sys2Proof.Machine.execRestoreSupervision s
  | .clearPointFault => Sys2Proof.Machine.execClearPointFault s
  | .ringReset => Sys2Proof.Machine.execRingReset s
  | .ringResetEnd => Sys2Proof.Machine.execRingResetEnd s
  | .snapshot => Sys2Proof.Machine.execSnapshot s
  | .snapshotWriteAccepted => Sys2Proof.Machine.execSnapshotWriteAccepted s
  | .snapshotWriteFailed => Sys2Proof.Machine.execSnapshotWriteFailed s
  | .digest => Sys2Proof.Machine.execDigest s
  | .outputTimerExpiry => Sys2Proof.Machine.execOutputTimerExpiry s
  | .deadlineExpiry => Sys2Proof.Machine.execDeadlineExpiry s
  | .settleWindowEnd p => Sys2Proof.Machine.execSettleWindowEnd p s
  | .senseChange p l => Sys2Proof.Machine.execSenseChange p l s
  | .rawTransition input => Sys2Proof.Machine.execRawTransition input s
  | .edgeEvent input => Sys2Proof.Machine.execEdgeEvent input s
  | .supervisionLapse => Sys2Proof.Machine.execSupervisionLapse s
  | .coalescingDelayExpiry r => Sys2Proof.Machine.execCoalescingDelayExpiry r s
  | .completionWriteAccepted r => Sys2Proof.Machine.execCompletionWriteAccepted r s
  | .completionWriteFailed r => Sys2Proof.Machine.execCompletionWriteFailed r s
  | .readArrival rs => Sys2Proof.Machine.execReadArrival rs s
  | .readFailure how => Sys2Proof.Machine.execReadFailure how s

end Sys2Proof.Machine
end

