-- ==== Sys2Proof/Machine/Step.lean ====
section
/-! DEFINITION. One step of the block, and a command put at the front of its queue. -/

namespace Sys2Proof.Machine

/-- With no command waiting: the event that is due now, and when none is, one tick of device time (log 3). -/
def idle (s : State) : Host.Outcome State Fault Refusal :=
  match s.dev.dueCommand with
  | some c => exec c s
  | none => .next { s with dev := s.dev.tick }

/-- One step: the command at the front of the queue is run on the state with the queue's rest. -/
def step (s : State) : Host.Outcome State Fault Refusal :=
  match s.pending with
  | c :: rest => exec c { s with pending := rest }
  | [] => idle s

/-- The command that a word spells, put at the front of the queue; no word of the table spells one. -/
def State.withFetchWord (s : State) (nbits w : Nat) : State :=
  match decodeTableWord nbits w with
  | some c => { s with pending := c :: s.pending }
  | none => s

end Sys2Proof.Machine
end

