-- ==== Sys2Proof/Safety.lean ====
section
/-! DEFINITION. The terms in which statements speak of a run: how an event closes, which commands reset, what the host
configured, and the conditions that hold between events. -/

namespace Sys2Proof.Machine

/-! ## How an event closes -/

/-- The write a completion ring carries after an event that left `d` with the bus ready: the one in flight, or the one
R159 issues. -/
def Device.nextWrite (d : Device) (c : CRingId) : Option CWrite :=
  match (d.cring c).inflight with
  | some w => some w
  | none => if d.mayIssue c then (d.queueHead c).map (fun x => d.formWrite c x.1 x.2) else none

/-- The read the channel carries after an event that left `d`: the one in flight, or the one R142 grants. -/
def Device.nextRead (d : Device) : Option ReadOp :=
  match d.channel with
  | some op => some op
  | none => d.arbiter.map d.readFor

/-- The last granted action ring after an event that left `d` (R142). -/
def Device.nextGrant (d : Device) : RingId :=
  match d.channel, d.arbiter with
  | none, some r => if r = 0 then d.lastGrant else r
  | _, _ => d.lastGrant

/-- Nothing is due: no completion ring may issue a write for a queued answer (R159), and an idle channel is granted to
no ring (R142). -/
def Device.NothingDue (d : Device) : Prop :=
  (∀ n : CRingId, d.mayIssue n = true → d.queueHead n = none) ∧ (d.channel = none → d.arbiter = none)

/-- What an event that left `d` issues before it ends. While bus-master operations can be issued: the completion write
of each ring and the read that are due, and everything else as in `d`. While they cannot be: six rounds of attempts,
each of which fails in the event and may bring the next (R145, R162, log 7). -/
def Device.served (d : Device) : Device :=
  if d.busReady then
    { d with
      c0 := { d.c0 with inflight := d.nextWrite .c0 }
      c1 := { d.c1 with inflight := d.nextWrite .c1 }
      channel := d.nextRead
      lastGrant := d.nextGrant }
  else Device.serviceRounds 6 d

/-- The block after an event that went from `before` to `d`: what is due is issued (R159, R142), a message is sent at a
rise of the interrupt request (R169), and everything else is as in `d`. -/
def Device.closedFrom (before d : Device) : Device :=
  { d.served with
    link :=
      { d.served.link with
        messages := d.served.link.messages +
          (if d.served.link.msi && !before.request && d.served.request then 1 else 0) } }

/-! ## Commands that reset (R174, R176) -/

/-- The command is a reset: POWER_ON_RESET, LINK_RESET, or a full-width CONTROL write with RESET 1. -/
def resets : Instr → Bool
  | .powerOnReset | .linkReset => true
  | .controlReset v | .enable v | .ic0en v | .ic1en v | .alerten v => resetBit v
  | .registerWriteOther offset width v => width == 4 && offset == 0x04 && resetBit v
  | _ => false

/-- The command is a full-width CONTROL write with ENABLE 1 and RESET 0, which begins a boot in INIT (R176). -/
def beginsBoot : Instr → Bool
  | .enable v | .ic0en v | .ic1en v | .alerten v | .controlReset v => v.getLsbD 0 && !resetBit v
  | .registerWriteOther offset width v => width == 4 && offset == 0x04 && v.getLsbD 0 && !resetBit v
  | _ => false

/-! ## What the host configured -/

/-- The configuration fields that enter the serialization (12.6). -/
structure Setup where
  points : Vector (Fin 8 × PointMode × Bool) 64
  inputs : Vector (Byte × Bool) 32
  zones : Vector Zone 8
  groups : Vector (Nat × Vector Literal 16) 7
  interval : BitVec 16
  deriving DecidableEq, Repr

/-- The configuration of a device. -/
def Device.setup (d : Device) : Setup :=
  { points := d.points.map (fun p => (p.group, p.mode, p.readback))
    inputs := d.inputs.map (fun i => (i.debounce, i.invert))
    zones := d.zones
    groups := d.groups.map (fun g => (g.terms, g.lits))
    interval := d.sup.interval }

/-! ## The words of the statements -/

/-- The command goes on and leaves the block as `x`, with the event closed from the state before. -/
def Closes (c : Instr) (s : State) (x : Device) : Prop := exec c s = .next { s with dev := s.dev.closedFrom x }

/-- Command `c` is an event due now, and `n` is its place in the order in which an empty queue's steps take such events
(log 3): the expiry of the first Timing List entry (R70), a settle window's end (R16), a complete debounce interval
(R102), the supervision lapse (R127), a coalescing delay's expiry (R167), the 4 ms limit of the read in flight (R145) and
of the boot read (R177), and a taking whose conditions hold (R53). -/
def Device.DueEvent (d : Device) (n : Nat) (c : Instr) : Prop :=
  (∃ (t : TimerEntry) (rest : List TimerEntry), d.timing = t :: rest ∧ timeReached d.now t.due = true ∧
    d.dstate = .run ∧ n = 0 ∧ c = if t.kind = .outputTimer then .outputTimerExpiry else .deadlineExpiry) ∨
  (∃ (p : PointId) (due : Time), d.points[p].window = some due ∧ timeReached d.now due = true ∧ n = 1 + p.val ∧
    c = .settleWindowEnd p) ∨
  (∃ (i : InputId) (since : Time), d.inputs[i].pendingSince = some since ∧
    timeReached d.now (since + BitVec.ofNat 32 (d.inputs[i].debounce.toNat * 100)) = true ∧ n = 65 + i.val ∧
    c = .edgeEvent i) ∨
  (∃ due : Time, d.sup.supv = .ok ∧ d.sup.countdown = some due ∧ timeReached d.now due = true ∧ n = 97 ∧
    c = .supervisionLapse) ∨
  (∃ (m : CRingId) (due : Time), (d.cring m).countdown = some due ∧ timeReached d.now due = true ∧
    n = (if m = .c0 then 98 else 99) ∧ c = .coalescingDelayExpiry m) ∨
  (∃ op : ReadOp, d.channel = some op ∧ timeReached d.now (op.issued + 400) = true ∧ n = 100 ∧
    c = .readFailure .timeout) ∨
  (∃ op : BootRead, d.dstate = .booting ∧ d.bootRead = some op ∧ timeReached d.now (op.issued + 400) = true ∧
    n = 101 ∧ c = .bootReadFailure .timeout) ∨
  (∃ (r : RingId) (head : RawRecord) (rest : List RawRecord) (a : Slot), d.taken? r = some (head, rest, a) ∧
    n = 102 + r.val ∧
    c = if r = 0 then adminCommand (adminKindOf head) else actionCommand r (actionKindOf head))

/-- The record `head` of ring `r` can be taken into slot `a`, the records `rest` behind it (R53). -/
def Device.Takes (d : Device) (r : RingId) (head : RawRecord) (rest : List RawRecord) (a : Slot) : Prop :=
  d.taken? r = some (head, rest, a)

/-- The same for a record of action kind `k` at the head of an action ring. -/
def Device.TakesAction (d : Device) (k : ActionKind) (r : RingId) (head : RawRecord) (rest : List RawRecord)
    (a : Slot) : Prop :=
  d.Takes r head rest a ∧ r ≠ 0 ∧ actionKindOf head = some k

/-- The same for a record of admin kind `k` at the head of ring 0. -/
def Device.TakesAdmin (d : Device) (k : AdminKind) (head : RawRecord) (rest : List RawRecord) (a : Slot) : Prop :=
  d.Takes 0 head rest a ∧ adminKindOf head = some k

/-- The six output kinds (R21). -/
def isOutputKind : ActionKind → Bool
  | .set | .clear | .pulse | .delaySet | .delayClear | .blink => true
  | .note | .keepalive => false

/-- An output-kind record passes validation and the zone check (R29, R32). -/
def Device.Grants (d : Device) (k : ActionKind) (r : RingId) (head : RawRecord) : Prop :=
  validAction k head = true ∧ d.zoneRefusal r (isOnEffect k) (pointOf head) = none

/-- An output-kind record passes the fault check and the gate check (R5, R6). -/
def Device.PassesChecks (d : Device) (k : ActionKind) (head : RawRecord) : Prop :=
  d.points[pointOf head].pstate = .normal ∧
    (isOnEffect k = true → d.gateOpen d.points[pointOf head].group = true)

/-- A granted record without a trigger whose point is NORMAL, unclaimed and open to its effect class: its effect is
made in its intake event (R4, R38). -/
def Device.ReachesEffect (d : Device) (k : ActionKind) (r : RingId) (head : RawRecord) : Prop :=
  d.Grants k r head ∧ trigOf head = false ∧ d.PassesChecks k head ∧ d.points[pointOf head].claim = none

/-- The entry a taking fills, in a state (R45). -/
def Device.entryOf (d : Device) (r : RingId) (head : RawRecord) (st : EntryState) : Entry :=
  { ring := r, pos := d.rings[r].tail, record := head, st := st }

/-- The checks of an admin kind's own parameters and reserved bytes (R179). -/
def adminOk : AdminKind → RawRecord → Bool
  | .configureRing => configureRingOk
  | .configureCompletion => configureCompletionOk
  | .definePoint => definePointOk
  | .defineInput => defineInputOk
  | .defineZone => defineZoneOk
  | .defineGroup => defineGroupOk
  | .setSupervision => adminReservedOk .setSupervision
  | .enterRun => enterRunOk
  | .enterConfigure => adminReservedOk .enterConfigure
  | .forceGroup => forceGroupOk
  | .restoreSupervision => adminReservedOk .restoreSupervision
  | .clearPointFault => clearPointFaultOk
  | .ringReset => ringResetOk
  | .snapshot => snapshotOk
  | .digest => adminReservedOk .digest

/-- A full-width CONTROL write of `v`: one of the rows of CONTROL's fields, or the general register write. -/
def ControlWrite (v : Word) (c : Instr) : Prop :=
  c = .enable v ∨ c = .ic0en v ∨ c = .ic1en v ∨ c = .alerten v ∨ c = .registerWriteOther 0x04 4 v

/-- The block at its reset state with RCAUSE `cause` (R174 and the rules its blocks give: R1, R79, R99, R116, R124, R135,
R155; 9.3 and 10.5 for PRODUCER and CONSUMER); the sense lines, input pins and link are `d`'s (log 1), and the input
levels equal the pins in the event (log 9). -/
def Device.ResetFrom (d : Device) (cause : RCause) (t : Device) : Prop :=
  (t.dstate = .init ∧ t.rcause = cause ∧ t.hreason = .none ∧ t.alert = 0 ∧ t.control = 0 ∧ t.bootLo = 0 ∧
    t.bootHi = 0 ∧ t.bootCopy = none ∧ t.bootRead = none ∧ t.snapWrite = none ∧ t.now = 0 ∧ t.timing = []) ∧
  (∀ a : Slot, t.slots[a] = none) ∧
  (∀ p : PointId, t.points[p] =
    { group := 0, mode := .plain, readback := false, level := false, pstate := .normal, claim := none, window := none,
      sense := d.points[p].sense }) ∧
  (∀ k : Fin 7, t.groups[k].terms = 0 ∧ t.groups[k].force = false ∧ t.groups[k].gate = false ∧
    t.groups[k].waits = []) ∧
  (∀ i : InputId, t.inputs[i] =
    { debounce := 0, invert := false, pin := d.inputs[i].pin, raw := d.inputs[i].pin, qualified := d.inputs[i].pin,
      pendingSince := none, capture := 0, waits := [], moved := false }) ∧
  (∀ z : Fin 8, t.zones[z] = { en := false, base := 0, size := 1, rings := 0, onok := false, offok := false }) ∧
  t.sup = { interval := 0, supv := .off, countdown := none } ∧
  (∀ r : RingId, r ≠ 0 → t.rings[r] =
    { state := .disabled, base := 0, size := 16, bound := .c0, quota := 15, producer := 0, tail := 0, buf := [],
      cause := .none }) ∧
  (t.rings[(0 : RingId)].tail = 0 ∧ t.rings[(0 : RingId)].producer = 0 ∧ t.rings[(0 : RingId)].buf = [] ∧
    t.channel = none ∧ t.lastGrant = 4) ∧
  t.c1 =
    { state := .disabled, base := 0, size := 16, producer := 0, consumer := 0, phase := true, thresh := 1, delay := 0,
      countdown := none, ic := false, queue := [], inflight := none } ∧
  (t.c0.ic = false ∧ t.c0.countdown = none ∧ t.c0.queue = [] ∧ t.c0.inflight = none) ∧
  t.producerReg = 0 ∧ t.consumerReg = 0 ∧ t.link = d.link

/-- Command `c` halts the block `old` with HREASON `reason` (R173, R177, R178, R183). The last case of a boot is the
one event that makes two changes, in a state no run reaches. -/
def HaltedBy (c : Instr) (old : Device) (reason : HReason) : Prop :=
  (old.dstate = .init ∧ beginsBoot c = true ∧ (reason = .bootflt ∨ reason = .bootbad)) ∨
  (old.dstate = .booting ∧ reason = .bootflt ∧ ∃ how, c = .bootReadFailure how) ∨
  (old.dstate = .booting ∧ reason = .bootbad ∧ ∃ b, c = .bootReadArrival b ∧ bootBlockOk b = false) ∨
  ((old.dstate = .configure ∨ old.dstate = .run ∨ old.dstate = .draining ∨
      (old.dstate = .booting ∧ ∃ b, c = .bootReadArrival b ∧ bootBlockOk b = true)) ∧
    (reason = .c0flt ∧ (c = .completionWriteFailed .c0 ∨ old.busReady = false) ∨
      reason = .aringflt ∧ ((∃ how, c = .readFailure how) ∨ old.busReady = false)))

/-- A change of device state from `old` to `new` that command `c` may make (R173). Where one event makes two changes,
the second state stands. -/
def Transition (c : Instr) (old new : Device) : Prop :=
  (new.dstate = old.dstate ∧ new.hreason = old.hreason) ∨
  (new.dstate = .init ∧ new.hreason = .none ∧ resets c = true) ∨
  (old.dstate = .init ∧ new.dstate = .booting ∧ beginsBoot c = true) ∨
  (old.dstate = .booting ∧ new.dstate = .configure ∧ ∃ b, c = .bootReadArrival b ∧ bootBlockOk b = true) ∨
  (old.dstate = .configure ∧ new.dstate = .run ∧ c = .enterRun) ∨
  (old.dstate = .run ∧ new.dstate = .draining ∧ c = .enterConfigure) ∨
  ((old.dstate = .draining ∨ old.dstate = .run ∧ c = .enterConfigure) ∧ new.dstate = .configure ∧
    ∀ a : Slot, a.val < 60 → new.slots[a] = none) ∨
  (new.dstate = .halted ∧ HaltedBy c old new.hreason)

/-! ## The fields a record must hold -/

/-- Bytes `lo` to `hi - 1` are zero. -/
def ZeroBytes {n : Nat} (r : BitVec n) (lo hi : Nat) : Prop := ∀ i : Nat, lo ≤ i → i < hi → byteAt r i = 0

/-- A ring size: 16, 32, 64 and so on up to 4096 (R137, R157, 11.3). -/
def RingSize (n : Nat) : Prop := ∃ k : Nat, 4 ≤ k ∧ k ≤ 12 ∧ n = 2 ^ k

/-- The KIND code of an action kind (12.2). -/
def actionKindCode : ActionKind → Nat
  | .set => 0x01 | .clear => 0x02 | .pulse => 0x03 | .delaySet => 0x04 | .delayClear => 0x05 | .blink => 0x06
  | .note => 0x07 | .keepalive => 0x08

/-- The KIND code of an admin kind (12.2). -/
def adminKindCode : AdminKind → Nat
  | .configureRing => 0x10 | .configureCompletion => 0x11 | .definePoint => 0x12 | .defineInput => 0x13
  | .defineZone => 0x14 | .defineGroup => 0x15 | .setSupervision => 0x16 | .enterRun => 0x17 | .enterConfigure => 0x18
  | .forceGroup => 0x19 | .restoreSupervision => 0x1A | .clearPointFault => 0x1B | .ringReset => 0x1C
  | .snapshot => 0x1D | .digest => 0x1E

/-- The bytes of an action record of kind `k` hold what R29's table and the layout of 12.1 admit: FLAGS in byte 1
(bit 1 SUPERSEDE, bit 2 WAITGATE, bit 3 TRIG), POINT, UNIT, COUNT, CYCLES, TRIGIN, EDGE, LUNIT and LIMIT from byte 4
(R24 to R29). -/
def ActionFields (k : ActionKind) (r : RawRecord) : Prop :=
  (byteAt r 1).toNat < 16 ∧ (byteAt r 5).toNat ≤ 3 ∧ (byteAt r 10).toNat ≤ 3 ∧ (byteAt r 11).toNat ≤ 3 ∧
  ZeroBytes r 14 32 ∧ (halfAt r 12 = 0 → byteAt r 11 = 0) ∧
  ((byteAt r 1).getLsbD 3 = true → (byteAt r 9).toNat ≤ 31 ∧ byteAt r 10 ≠ 0) ∧
  ((byteAt r 1).getLsbD 3 = false → byteAt r 9 = 0 ∧ byteAt r 10 = 0) ∧
  match k with
  | .set | .clear => (byteAt r 4).toNat ≤ 63 ∧ ZeroBytes r 5 9
  | .pulse | .delaySet | .delayClear => (byteAt r 4).toNat ≤ 63 ∧ halfAt r 6 ≠ 0 ∧ byteAt r 8 = 0
  | .blink => (byteAt r 4).toNat ≤ 63 ∧ halfAt r 6 ≠ 0 ∧ byteAt r 8 ≠ 0
  | .note =>
    (byteAt r 4).toNat ≤ 31 ∧ byteAt r 4 = byteAt r 9 ∧ ZeroBytes r 5 9 ∧ (byteAt r 1).getLsbD 3 = true ∧
      (byteAt r 1).getLsbD 2 = false ∧ (byteAt r 1).getLsbD 1 = false
  | .keepalive =>
    ZeroBytes r 4 9 ∧ (byteAt r 1).getLsbD 3 = false ∧ (byteAt r 1).getLsbD 2 = false ∧
      (byteAt r 1).getLsbD 1 = false ∧ halfAt r 12 = 0

/-- A literal slot byte that R82 admits, `b`: literal kind in bits 5 and 6 (0 unused, 1 IN, 2 GATE, 3 SUPOK), index in
bits 0 to 4. -/
def LiteralByteOk (b : Nat) : Prop :=
  (b / 32 % 4 = 0 → b = 0) ∧ (b / 32 % 4 = 2 → b % 32 ≤ 7) ∧ (b / 32 % 4 = 3 → b % 32 = 0)

/-- The bytes of an admin record of kind `k` hold what the kind's own rule and the layout of 12.1 admit (R2, R19, R82,
R83, R104, R117, R125, R130, R137, R150, R157, R180, R181, R186, R188, R192). -/
def AdminFields (k : AdminKind) (r : RawRecord) : Prop :=
  byteAt r 1 = 0 ∧
  match k with
  | .configureRing =>
    (1 ≤ (byteAt r 4).toNat ∧ (byteAt r 4).toNat ≤ 4) ∧ (byteAt r 5).toNat ≤ 1 ∧
      (1 ≤ (byteAt r 6).toNat ∧ (byteAt r 6).toNat ≤ 60) ∧ RingSize (halfAt r 8).toNat ∧
      (addrAt r 16).toNat % 64 = 0 ∧ byteAt r 7 = 0 ∧ ZeroBytes r 10 16 ∧ ZeroBytes r 24 32
  | .configureCompletion =>
    byteAt r 4 = 1 ∧ (1 ≤ (byteAt r 5).toNat ∧ (byteAt r 5).toNat ≤ 32 ∧ (byteAt r 5).toNat < (halfAt r 8).toNat) ∧
      RingSize (halfAt r 8).toNat ∧ (addrAt r 16).toNat % 64 = 0 ∧ byteAt r 7 = 0 ∧ ZeroBytes r 10 16 ∧
      ZeroBytes r 24 32
  | .definePoint =>
    (byteAt r 4).toNat ≤ 63 ∧ (byteAt r 5).toNat ≤ 7 ∧ (byteAt r 6).toNat ≤ 1 ∧ (byteAt r 7).toNat ≤ 1 ∧
      ZeroBytes r 8 32
  | .defineInput => (byteAt r 4).toNat ≤ 31 ∧ (byteAt r 6).toNat ≤ 1 ∧ ZeroBytes r 7 32
  | .defineZone =>
    (byteAt r 4).toNat ≤ 7 ∧ (byteAt r 5).toNat ≤ 1 ∧ (byteAt r 6).toNat ≤ 63 ∧
      (∃ k : Nat, k ≤ 6 ∧ (byteAt r 7).toNat = 2 ^ k) ∧ (byteAt r 6).toNat % (byteAt r 7).toNat = 0 ∧
      (byteAt r 8).toNat < 16 ∧ (byteAt r 9).toNat ≤ 1 ∧ (byteAt r 10).toNat ≤ 1 ∧ ZeroBytes r 11 32
  | .defineGroup =>
    (1 ≤ (byteAt r 4).toNat ∧ (byteAt r 4).toNat ≤ 7) ∧ (byteAt r 5).toNat ≤ 4 ∧
      (∀ i : Nat, i < 16 → LiteralByteOk (byteAt r (6 + i)).toNat) ∧
      ZeroBytes r (6 + 4 * (byteAt r 5).toNat) 32
  | .setSupervision => ZeroBytes r 6 32
  | .enterRun =>
    (byteAt r 4).toNat < 4 ∧ ((byteAt r 4).getLsbD 1 = false → ZeroBytes r 8 12) ∧ ZeroBytes r 5 8 ∧ ZeroBytes r 12 32
  | .forceGroup =>
    (1 ≤ (byteAt r 4).toNat ∧ (byteAt r 4).toNat ≤ 7) ∧ (byteAt r 5).toNat ≤ 1 ∧ ZeroBytes r 6 32
  | .clearPointFault => (byteAt r 4).toNat ≤ 63 ∧ ZeroBytes r 5 32
  | .ringReset => (1 ≤ (byteAt r 4).toNat ∧ (byteAt r 4).toNat ≤ 4) ∧ (byteAt r 5).toNat ≤ 1 ∧ ZeroBytes r 6 32
  | .snapshot => (addrAt r 8).toNat % 64 = 0 ∧ ZeroBytes r 4 8 ∧ ZeroBytes r 16 32
  | .enterConfigure | .restoreSupervision | .digest => ZeroBytes r 4 32

/-- The bytes of a bootstrap block hold what the tables of 11.3 and 12.4 admit (R178). -/
def BootFields (b : BootBlock) : Prop :=
  byteAt b 0 = 1 ∧ (addrAt b 8).toNat % 64 = 0 ∧ (16 ≤ (halfAt b 16).toNat ∧ (halfAt b 16).toNat ≤ 256) ∧
  (addrAt b 24).toNat % 64 = 0 ∧ RingSize (halfAt b 32).toNat ∧
  (1 ≤ (byteAt b 34).toNat ∧ (byteAt b 34).toNat ≤ 32 ∧ (byteAt b 34).toNat < (halfAt b 32).toNat) ∧
  ZeroBytes b 1 8 ∧ ZeroBytes b 18 24 ∧ ZeroBytes b 36 64

/-! ## The images the block writes -/

/-- The number in the `n` bytes of `l` from byte `i` on, least significant first (file 12, little-endian). -/
def numberAt (l : List Byte) (i : Nat) : Nat → Nat
  | 0 => 0
  | n + 1 => (l.getD i 0).toNat + 256 * numberAt l (i + 1) n

/-- The reserved bytes of the snapshot (12.5). -/
def snapshotReserved (i : Nat) : Prop :=
  i = 7 ∨ (12 ≤ i ∧ i < 16) ∨ (144 ≤ i ∧ i < 172 ∧ 2 ≤ i % 4) ∨ i = 173 ∨ i = 222 ∨ i = 223 ∨ i = 231 ∨ i = 239 ∨
    (240 ≤ i ∧ i < 256)

/-- The bytes `l` are the snapshot of the block by the table of 12.5: counts in the width of their byte, and every
reserved byte zero (R186, R194). -/
def Device.SnapshotHolds (d : Device) (l : List Byte) : Prop :=
  l.length = 256 ∧
  (numberAt l 0 4 = d.now.toNat ∧ numberAt l 4 1 = dstateCode d.dstate ∧ numberAt l 5 1 = hreasonCode d.hreason ∧
    numberAt l 6 1 = d.timing.length % 256 ∧ numberAt l 8 4 = d.alert.toNat) ∧
  (∀ p : PointId, numberAt l (16 + p.val) 1 =
    d.points[p].level.toNat + 2 * (decide (d.points[p].pstate = .faulted)).toNat + 4 * d.points[p].claim.isSome.toNat) ∧
  (∀ i : InputId, numberAt l (80 + 2 * i.val) 1 =
      d.inputs[i].qualified.toNat + 2 * d.inputs[i].raw.toNat + 4 * d.inputs[i].pendingSince.isSome.toNat ∧
    numberAt l (81 + 2 * i.val) 1 = d.inputs[i].waits.length % 256) ∧
  (∀ k : Fin 7, numberAt l (144 + 4 * k.val) 1 = d.groups[k].gate.toNat + 2 * d.groups[k].force.toNat ∧
    numberAt l (145 + 4 * k.val) 1 = d.groups[k].waits.length % 256) ∧
  (numberAt l 172 1 = supvCode d.sup.supv ∧ numberAt l 174 2 = d.sup.interval.toNat ∧
    numberAt l 176 4 = (d.sup.countdown.getD 0).toNat) ∧
  (∀ r : RingId, numberAt l (180 + 8 * r.val) 2 = d.rings[r].tail % 65536 ∧
    numberAt l (182 + 8 * r.val) 2 = d.rings[r].producer % 65536 ∧
    numberAt l (184 + 8 * r.val) 1 =
      ringStateCode d.rings[r].state + (if r = 0 then 0 else 16 * faultCauseCode d.rings[r].cause) ∧
    numberAt l (185 + 8 * r.val) 1 = d.rings[r].buf.length % 256 ∧
    numberAt l (186 + 8 * r.val) 1 = (List.finRange 64).countP (fun a => d.slots[a].any (fun e => e.ring == r)) ∧
    numberAt l (187 + 8 * r.val) 1 =
      (List.finRange 64).countP (fun a => d.slots[a].any (fun e => e.ring == r && e.isLive))) ∧
  (numberAt l 220 1 = (List.finRange 64).countP (fun a => decide (a.val < 60) && d.slots[a].isNone) ∧
    numberAt l 221 1 = (List.finRange 64).countP (fun a => decide (60 ≤ a.val) && d.slots[a].isNone)) ∧
  (∀ (n : CRingId) (i : Nat), i = (if n = .c0 then 224 else 232) →
    numberAt l i 1 = cringStateCode (d.cring n).state ∧
    numberAt l (i + 1) 1 =
      (d.cring n).phase.toNat + 2 * (d.cring n).ic.toNat + 4 * (d.cring n).inflight.isSome.toNat ∧
    numberAt l (i + 2) 2 = (d.cring n).producer % 65536 ∧ numberAt l (i + 4) 2 = (d.cring n).consumer % 65536 ∧
    numberAt l (i + 6) 1 = (d.cring n).queue.length % 256) ∧
  ∀ i : Nat, snapshotReserved i → numberAt l i 1 = 0

/-- The number of a literal slot byte: literal kind in bits 5 and 6, index in bits 0 to 4, negation in bit 7 (12.1). -/
def literalCode : Literal → Nat
  | .unused => 0
  | .input i neg => 32 + i.val + 128 * neg.toNat
  | .gate g neg => 64 + g.val + 128 * neg.toNat
  | .supok neg => 96 + 128 * neg.toNat

/-- The bytes `l` are the configuration serialization of the block by the table of 12.6 (R193). -/
def Device.ConfigurationHolds (d : Device) (l : List Byte) : Prop :=
  l.length = 313 ∧
  (∀ p : PointId, numberAt l p.val 1 =
    d.points[p].group.val + 16 * (decide (d.points[p].mode = .held)).toNat + 32 * d.points[p].readback.toNat) ∧
  (∀ i : InputId, numberAt l (64 + 2 * i.val) 1 = d.inputs[i].debounce.toNat ∧
    numberAt l (65 + 2 * i.val) 1 = d.inputs[i].invert.toNat) ∧
  (∀ (z : Fin 8) (i : Nat), i = 128 + 8 * z.val →
    numberAt l i 1 = d.zones[z].en.toNat ∧ numberAt l (i + 1) 1 = d.zones[z].base % 256 ∧
    numberAt l (i + 2) 1 = d.zones[z].size % 256 ∧ numberAt l (i + 3) 1 = d.zones[z].rings.toNat ∧
    numberAt l (i + 4) 1 = d.zones[z].onok.toNat ∧ numberAt l (i + 5) 1 = d.zones[z].offok.toNat ∧
    numberAt l (i + 6) 2 = 0) ∧
  (∀ k : Fin 7, numberAt l (192 + 17 * k.val) 1 = d.groups[k].terms % 256 ∧
    ∀ j : Fin 16, numberAt l (193 + 17 * k.val + j.val) 1 = literalCode d.groups[k].lits[j]) ∧
  numberAt l 311 2 = d.sup.interval.toNat

/-- One bit entered into the reflected CRC-32 register with polynomial EDB88320h (R188). -/
def crcEnter (c : Word) (bit : Bool) : Word := if c.getLsbD 0 != bit then (c >>> 1) ^^^ 0xEDB88320 else c >>> 1

/-! ## Conditions that hold between events -/

/-- Outside RUN every point is OFF, the Timing List and every wait are empty, every gate is CLOSED, and supervision is
OFF and stopped (R172, R77, R93, R84, R124). -/
def Device.QuietOutsideRun (d : Device) : Prop :=
  d.dstate ≠ .run →
    (∀ p : PointId, d.points[p].level = false) ∧ d.timing = [] ∧
    (∀ k : Fin 7, d.groups[k].gate = false ∧ d.groups[k].waits = []) ∧
    (∀ i : InputId, d.inputs[i].waits = []) ∧ d.sup.supv = .off ∧ d.sup.countdown = none

/-- Every GATE literal of the group at place `k` (G_{k+1}) names a lower group (R80, R82). -/
def Device.GatesOrdered (d : Device) : Prop :=
  ∀ (k : Fin 7) (s : Fin 16) (g : Fin 8) (neg : Bool), d.groups[k].lits[s] = .gate g neg → g.val < k.val + 1

/-- In RUN every gate equals the value R81 gives (R85). -/
def Device.GatesSettled (d : Device) : Prop :=
  d.dstate = .run → ∀ k : Fin 7, d.groups[k].gate = d.groupValue k

/-- Entries stand in the pool of their ring (R44). -/
def Device.PoolsKept (d : Device) : Prop :=
  ∀ (a : Slot) (e : Entry), d.slots[a] = some e → (e.ring = 0 ↔ 60 ≤ a.val)

/-- No action ring holds more entries than its quota, and a DISABLED one holds none (R52, R57). -/
def Device.QuotasKept (d : Device) : Prop :=
  ∀ r : RingId, r ≠ 0 → d.held r ≤ d.rings[r].quota ∧ (d.rings[r].state = .disabled → d.held r = 0)

/-- Indices lie inside their ring, and what is fetched lies within the producer the host wrote and the buffer's eight
places; a ring that is not ACTIVE holds nothing fetched (R134, R139, R140, R143, R146). -/
def Device.RingsBounded (d : Device) : Prop :=
  ∀ r : RingId, d.rings[r].tail < d.rings[r].size ∧ d.rings[r].producer < d.rings[r].size ∧
    d.rings[r].buf.length ≤ d.rings[r].available ∧ d.rings[r].buf.length + d.inFlightCount r ≤ bufferDepth ∧
    (d.rings[r].state ≠ .active → d.rings[r].buf = [] ∧ d.inFlightCount r = 0)

/-- A completion ring's indices lie inside it, it holds at most size - 1 unconsumed records, and a write in flight has
room for its record (R159). -/
def CRing.Bounded (c : CRing) : Prop :=
  c.producer < c.size ∧ c.consumer < c.size ∧ c.unconsumed ≤ c.size - 1 ∧ (c.inflight ≠ none → c.hasRoom = true)

/-- Both completion rings are so bounded. -/
def Device.CompletionsBounded (d : Device) : Prop := d.c0.Bounded ∧ d.c1.Bounded

/-- Claims and TIMED entries agree: a point is claimed by slot `a` exactly when `a` holds a TIMED entry whose record
names the point; so a point is claimed by one entry and an entry claims one point (R7). -/
def Device.ClaimsTied (d : Device) : Prop :=
  ∀ (p : PointId) (a : Slot), d.points[p].claim = some a ↔
    ∃ (e : Entry) (b : Option Blink), d.slots[a] = some e ∧ e.st = .timed b ∧ pointOf e.record = p

/-- A FAULTED point is OFF and unclaimed (R18). -/
def Device.FaultedOff (d : Device) : Prop :=
  ∀ p : PointId, d.points[p].pstate = .faulted → d.points[p].level = false ∧ d.points[p].claim = none

/-- The record of a TIMED entry is of a timed kind, a BLINK with its progress (R10 to R12). -/
def timedKind (record : RawRecord) (b : Option Blink) : Bool :=
  match actionKindOf record with
  | some .pulse | some .delaySet | some .delayClear => true
  | some .blink => b.isSome
  | some .set | some .clear | some .note | some .keepalive | none => false

/-- Timing List entries and their owners agree: no slot owns two; an OUTPUT_TIMER belongs to a TIMED entry and a DEADLINE
to a waiting one; and every TIMED entry is a timed action's, stands in the action pool and owns one (R66). -/
def Device.TimersTied (d : Device) : Prop :=
  (d.timing.map TimerEntry.owner).Nodup ∧
  (∀ t : TimerEntry, t ∈ d.timing → ∃ e : Entry, d.slots[t.owner] = some e ∧
    (t.kind = .outputTimer ∧ (∃ b, e.st = .timed b) ∨
      t.kind = .deadline ∧ (e.st = .triggerWait ∨ e.st = .gateWait))) ∧
  (∀ (a : Slot) (e : Entry) (b : Option Blink), d.slots[a] = some e → e.st = .timed b →
    a.val < 60 ∧ timedKind e.record b = true ∧ ∃ t : TimerEntry, t ∈ d.timing ∧ t.owner = a)

/-- Wait lists and waiting entries agree: a group's list names, each once, action entries in GATE_WAIT whose point is of
the group (R93), and an input's trigger waits name, each once, action entries in TRIGGER_WAIT on that input (R107). -/
def Device.WaitsTied (d : Device) : Prop :=
  (∀ k : Fin 7, d.groups[k].waits.Nodup ∧ ∀ a : Slot, a ∈ d.groups[k].waits → a.val < 60 ∧
    ∃ e : Entry, d.slots[a] = some e ∧ e.st = .gateWait ∧ d.points[pointOf e.record].group = k.succ) ∧
  (∀ i : InputId, d.inputs[i].waits.Nodup ∧ ∀ a : Slot, a ∈ d.inputs[i].waits → a.val < 60 ∧
    ∃ e : Entry, d.slots[a] = some e ∧ e.st = .triggerWait ∧ trigInOf e.record = i)

/-- The answer queues name entries in ANSWER_PENDING, none twice (R51, R158). -/
def Device.QueuesTied (d : Device) : Prop :=
  (d.c0.queue ++ d.c1.queue).Nodup ∧
  ∀ a : Slot, a ∈ d.c0.queue ++ d.c1.queue → ∃ (e : Entry) (x : Answer), d.slots[a] = some e ∧ e.st = .answered x

/-- No entry is left between two states (R46). -/
def Device.NoIntake (d : Device) : Prop := ∀ (a : Slot) (e : Entry), d.slots[a] = some e → e.st ≠ .intake

end Sys2Proof.Machine
end

