-- ==== Sys2Proof/Certificates/Slice0/Obligations.lean ====
section
/-! DEFINITION. The statements for the provers: what each command does, what the shared operations do, and what every
step keeps. `Closes c s x` says that command `c` goes on from `s`, changes the block to `x` and nothing else, and
closes the event: it issues the completion writes and the read that are due, or fails them while the bus is not ready,
and counts a message at a rise of the interrupt request (`Device.closedFrom`; CompletionWritesFormed and ReadGrants
say what is due and how it fails). So each such statement holds the command's whole frame, whatever the bus. -/

open Sys2Proof Sys2Proof.Machine

/-! ## The step -/

/-- A step runs the command at the front of the queue on the state with the queue's rest (the queue is the model's,
log 3). -/
def Obligations.StepRunsFrontCommand : Prop :=
  ∀ (c : Instr) (d : Device) (rest : List Instr), step ⟨d, c :: rest⟩ = exec c ⟨d, rest⟩

/-- No command stops the block or touches the queue. With nothing waiting, the step is the event that is due, or one
tick of device time when none is; a tick changes the device time and lets every input pin be sampled anew, and no more
(R62, R100). So time does not pass an event that is due: the first timer's expiry in RUN (R70), a settle window's end
(R16), a debounce interval's (R102), the supervision lapse (R127), a coalescing delay's expiry (R167), a read's or the
boot read's 4 ms limit (R145, R177) and a taking (R53). Of several that are due, the step takes the first in this
order, lower numbers first. That the step does this, and this order, are the model's choice (log 3, DESIGN CHOICE). -/
def Obligations.CommandsGoOnAndTimeTicks : Prop :=
  (∀ (c : Instr) (s : State), ∃ d, exec c s = .next { s with dev := d }) ∧
  (∀ d : Device, d.dueCommand = none →
    step ⟨d, []⟩ =
      .next ⟨{ d with now := d.now + 1, inputs := d.inputs.map (fun i => { i with moved := false }) }, []⟩) ∧
  (∀ (d : Device) (c : Instr), d.dueCommand = some c → step ⟨d, []⟩ = exec c ⟨d, []⟩) ∧
  (∀ (d : Device) (c : Instr), d.dueCommand = some c ↔
    ∃ n : Nat, d.DueEvent n c ∧ ∀ (m : Nat) (other : Instr), d.DueEvent m other → n ≤ m) ∧
  (∀ d : Device, d.dueCommand = none ↔ ∀ (n : Nat) (c : Instr), ¬d.DueEvent n c)

/-! ## Resets and registers -/

/-- POWER_ON_RESET, LINK_RESET and a CONTROL write with RESET 1 put every block at its reset state, with RCAUSE the
reset's name (R174, R176, R1, R79, R99, R116, R124, R135, R155), and PRODUCER and CONSUMER read 0 (9.3, 10.5). The
model's choices in it: sense lines, input pins and link stay as they are (log 1, DESIGN CHOICE), raw and qualified
levels equal the pin in the reset event (log 9, DEDUCED), and each row that is a CONTROL write with RESET 1 resets
(log 10, DESIGN CHOICE). -/
def Obligations.ResetsRestoreEveryBlock : Prop :=
  (∀ s : State, ∃ t, exec .powerOnReset s = .next t ∧ t.pending = s.pending ∧ s.dev.ResetFrom .powerOn t.dev) ∧
  (∀ s : State, ∃ t, exec .linkReset s = .next t ∧ t.pending = s.pending ∧ s.dev.ResetFrom .link t.dev) ∧
  (∀ (s : State) (v : Word) (c : Instr), v.getLsbD 1 = true → c = .controlReset v ∨ ControlWrite v c →
    ∃ t, exec c s = .next t ∧ t.pending = s.pending ∧ s.dev.ResetFrom .control t.dev)

/-- A CONTROL write with RESET 0 that begins no boot stores ENABLE, IC0EN, IC1EN and ALERTEN (R176), whichever row
names it (the model's choice, log 10: each CONTROL row and the general write at 04h make the whole write). -/
def Obligations.ControlWriteStoresEnables : Prop :=
  ∀ (s : State) (v : Word) (c : Instr),
    ControlWrite v c → v.getLsbD 1 = false → ¬(s.dev.dstate = .init ∧ v.getLsbD 0 = true) →
    Closes c s { s.dev with control := v &&& 0x1D }

/-- A CONTROL write with ENABLE 1 in INIT begins a boot: the read of the block at BOOT_HI and BOOT_LO is issued, or
the block halts with BOOTBAD for an address that is no multiple of 64, or with BOOTFLT when the read cannot be issued
(R176, R177). That any CONTROL row, and the general write at 04h, makes the write is the model's choice (log 10). -/
def Obligations.EnableBeginsBoot : Prop :=
  ∀ (s : State) (v : Word) (c : Instr) (address : Addr),
    ControlWrite v c → v.getLsbD 1 = false → v.getLsbD 0 = true → s.dev.dstate = .init →
    address = s.dev.bootHi ++ s.dev.bootLo →
    (address.toNat % 64 = 0 → s.dev.busReady = true →
      Closes c s
        { s.dev with control := v &&& 0x1D, dstate := .booting, bootRead := some ⟨address, s.dev.now⟩ }) ∧
    (address.toNat % 64 ≠ 0 →
      Closes c s (({ s.dev with control := v &&& 0x1D, dstate := .booting } : Device).halt .bootbad)) ∧
    (address.toNat % 64 = 0 → s.dev.busReady = false →
      Closes c s (({ s.dev with control := v &&& 0x1D, dstate := .booting } : Device).halt .bootflt))

/-- BOOT_LO and BOOT_HI: 0 after any reset, replaced by a write in INIT, left by a write in any other state, read
back, and the address of a boot as they stand in its event (R175). -/
def Obligations.BootAddressRegisters : Prop :=
  (∀ (c : Instr) (s t : State), resets c = true → exec c s = .next t → t.dev.bootLo = 0 ∧ t.dev.bootHi = 0) ∧
  (∀ (s : State) (v : Word), s.dev.dstate = .init →
    exec (.bootAddressWrite .lo v) s = .next { s with dev := { s.dev with bootLo := v } } ∧
    exec (.bootAddressWrite .hi v) s = .next { s with dev := { s.dev with bootHi := v } }) ∧
  (∀ (s : State) (half : BootHalf) (v : Word), s.dev.dstate ≠ .init →
    exec (.bootAddressWrite half v) s = .next s) ∧
  (∀ d : Device, d.readRegister 0x14 = d.bootLo ∧ d.readRegister 0x18 = d.bootHi) ∧
  (∀ (s t : State) (v : Word) (op : BootRead), s.dev.dstate = .init → v.getLsbD 1 = false → v.getLsbD 0 = true →
    exec (.enable v) s = .next t → t.dev.bootRead = some op → s.dev.bootRead = none →
    op.addr.extractLsb' 0 32 = s.dev.bootLo ∧ op.addr.extractLsb' 32 32 = s.dev.bootHi)

/-- The end of the boot read in BOOTING: a good block gives ring 0 and C0 and the state CONFIGURE, a bad one halts
with BOOTBAD, and a failed read halts with BOOTFLT (R177, R178, R136, R156). A block is good when its fields and
reserved bytes hold what the tables of 11.3 and 12.4 admit. The limit of a timeout is 400 ticks after the issue
(DEDUCED, log 14), and a timeout is no event before it (log 4). -/
def Obligations.BootReadEnds : Prop :=
  (∀ b : BootBlock, bootBlockOk b = true ↔ BootFields b) ∧
  ∀ (s : State) (op : BootRead), s.dev.dstate = .booting → s.dev.bootRead = some op →
    (∀ b : BootBlock, bootBlockOk b = true →
      Closes (.bootReadArrival b) s
        { s.dev.setRing 0
            { s.dev.rings[(0 : RingId)] with
              state := .active, base := addrAt b 8, size := (halfAt b 16).toNat, bound := .c0, producer := 0,
              tail := 0, buf := [], cause := .none } with
          dstate := .configure
          bootRead := none
          bootCopy := some b
          c0 :=
            { state := .active, base := addrAt b 24, size := (halfAt b 32).toNat, producer := 0, consumer := 0,
              phase := true, thresh := (byteAt b 34).toNat, delay := (byteAt b 35).toNat, countdown := none,
              ic := false, queue := [], inflight := none } }) ∧
    (∀ b : BootBlock, bootBlockOk b = false → Closes (.bootReadArrival b) s (s.dev.halt .bootbad)) ∧
    Closes (.bootReadFailure .error) s (s.dev.halt .bootflt) ∧
    (timeReached s.dev.now (op.issued + 400) = true → Closes (.bootReadFailure .timeout) s (s.dev.halt .bootflt)) ∧
    (timeReached s.dev.now (op.issued + 400) = false → exec (.bootReadFailure .timeout) s = .next s)

/-- A write to ALERT clears each cause written as 1, but HALT in HALTED, and leaves the others (R190). -/
def Obligations.AlertWriteClearsCauses : Prop :=
  ∀ (s : State) (v : Word),
    ∃ x : Word, Closes (.alertWrite v) s { s.dev with alert := x } ∧
      ∀ i : Nat, x.getLsbD i =
        (s.dev.alert.getLsbD i && !(v.getLsbD i && !(i == 8 && s.dev.dstate == .halted)))

/-- An accepted PRODUCER write gives its ring the index and PRODUCER its value, and changes no more: of an ACTIVE
action ring when the new available count covers its buffer, of ring 0 when it covers its buffer and its read in flight
(R139, R140). The index stands in bits 11 to 0 of the value, the ring number in bits 18 to 16, and every other bit is
reserved (12.7, R195). The operating states are CONFIGURE, RUN and DRAINING, and counts of positions are taken modulo
the size (R134). -/
def Obligations.ProducerWriteAccepted : Prop :=
  (∀ v : Word, indexField v = v.toNat % 4096 ∧ ringField v = v.toNat / 65536 % 8 ∧
    (indexReservedOk v = true ↔ v.toNat / 4096 % 16 = 0 ∧ v.toNat / 524288 = 0)) ∧
  (∀ d : Device, d.operational = true ↔ d.dstate = .configure ∨ d.dstate = .run ∨ d.dstate = .draining) ∧
  (∀ x y size : Nat, x < size → y < size → indexSub x y size = if y ≤ x then x - y else x + size - y) ∧
  ∀ (s : State) (v : Word) (r : RingId),
    s.dev.operational = true → indexReservedOk v = true → ringField v = r.val →
    indexField v < s.dev.rings[r].size →
    (r ≠ 0 → s.dev.rings[r].state = .active ∧
      s.dev.rings[r].buf.length ≤ indexSub (indexField v) s.dev.rings[r].tail s.dev.rings[r].size) →
    (r = 0 → s.dev.rings[r].buf.length + s.dev.inFlightCount 0 ≤
      indexSub (indexField v) s.dev.rings[r].tail s.dev.rings[r].size) →
    Closes (.producerWrite v) s
      { s.dev.setRing r { s.dev.rings[r] with producer := indexField v } with producerReg := v }

/-- A PRODUCER write that is not accepted: it faults an ACTIVE action ring with BADPROD or REGRESS (R139); every other
one is discarded with ALERT.BADIDX, and in HALTED without it (R138, R140, R195). -/
def Obligations.ProducerWriteNotAccepted : Prop :=
  ∀ (s : State) (v : Word),
    (∀ r : RingId, r ≠ 0 → s.dev.operational = true → indexReservedOk v = true → ringField v = r.val →
      s.dev.rings[r].state = .active →
      (s.dev.rings[r].size ≤ indexField v → Closes (.producerWrite v) s (s.dev.ringFault r .badprod)) ∧
      (indexField v < s.dev.rings[r].size →
        indexSub (indexField v) s.dev.rings[r].tail s.dev.rings[r].size < s.dev.rings[r].buf.length →
        Closes (.producerWrite v) s (s.dev.ringFault r .regress))) ∧
    (s.dev.dstate = .halted → Closes (.producerWrite v) s s.dev) ∧
    (s.dev.dstate ≠ .halted →
      (s.dev.operational = false ∨ indexReservedOk v = false ∨ 4 < ringField v ∨
        (∃ r : RingId, r ≠ 0 ∧ ringField v = r.val ∧ s.dev.rings[r].state ≠ .active) ∨
        (ringField v = 0 ∧ (s.dev.rings[(0 : RingId)].size ≤ indexField v ∨
          indexSub (indexField v) s.dev.rings[(0 : RingId)].tail s.dev.rings[(0 : RingId)].size <
            s.dev.rings[(0 : RingId)].buf.length + s.dev.inFlightCount 0))) →
      Closes (.producerWrite v) s { s.dev with alert := s.dev.alert ||| 0x80 })

/-- A CONSUMER write: accepted, it moves the consumer, sets ICn and the countdown anew from the count it leaves, and
sends a message for a cause cleared and set again that still stands at the event's end (that a cause which the event
itself clears again, by a write that cannot be issued, sends none is the model's choice, log 19); otherwise it is
discarded with ALERT.BADIDX, and in HALTED without it (R164, R168, R169, R195). -/
def Obligations.ConsumerWriteAcknowledges : Prop :=
  ∀ (s : State) (v : Word) (n : CRingId),
    (∀ (left : Nat) (x y : Device),
      s.dev.operational = true → indexReservedOk v = true → ringField v = (if n = .c0 then 0 else 1) →
      (s.dev.cring n).state = .active → indexField v < (s.dev.cring n).size →
      indexSub (indexField v) (s.dev.cring n).consumer (s.dev.cring n).size ≤
        indexSub (s.dev.cring n).producer (s.dev.cring n).consumer (s.dev.cring n).size →
      left = indexSub (s.dev.cring n).producer (indexField v) (s.dev.cring n).size →
      x = { s.dev.setCRing n
              { s.dev.cring n with
                consumer := indexField v
                ic := decide ((s.dev.cring n).thresh ≤ left)
                countdown :=
                  if left < (s.dev.cring n).thresh ∧ 0 < left ∧ 0 < (s.dev.cring n).delay then
                    some (s.dev.now + BitVec.ofNat 32 ((s.dev.cring n).delay * 10))
                  else none } with
            consumerReg := v } →
      y = s.dev.closedFrom x →
      exec (.consumerWrite v) s =
        .next { s with
          dev :=
            { y with
              link :=
                { s.dev.link with
                  messages := s.dev.link.messages +
                    (if s.dev.link.msi &&
                        ((!s.dev.request && y.request) ||
                          ((s.dev.cring n).ic && (y.cring n).ic && s.dev.icEnabled n)) then 1
                     else 0) } } }) ∧
    (s.dev.dstate = .halted → Closes (.consumerWrite v) s s.dev) ∧
    (s.dev.dstate ≠ .halted →
      (s.dev.operational = false ∨ indexReservedOk v = false ∨ 1 < ringField v ∨
        (ringField v = (if n = .c0 then 0 else 1) ∧
          ((s.dev.cring n).state ≠ .active ∨ (s.dev.cring n).size ≤ indexField v ∨
            indexSub (s.dev.cring n).producer (s.dev.cring n).consumer (s.dev.cring n).size <
              indexSub (indexField v) (s.dev.cring n).consumer (s.dev.cring n).size))) →
      Closes (.consumerWrite v) s { s.dev with alert := s.dev.alert ||| 0x80 })

/-- A narrow register write, and a full one to IDENT, STATUS, TIME or an unassigned offset, changes nothing; a full
one elsewhere is its register's own command (the model's choice, log 10). A read returns each register as it stands,
STATUS field by field with the codes of 12.2, and 0 at an unassigned offset; a narrow read returns the addressed bytes
(R63, R189, R195). A full write at an offset that is no multiple of 4 is taken as one to an unassigned offset (the
model's choice, log 18). STATUS bit 15 is the interrupt request: an enabled IC0, IC1 or ALERT cause; and the legacy
line is asserted with it while message interrupts are not enabled and the interrupt disable bit is clear (R169). -/
def Obligations.RegisterWindow : Prop :=
  (∀ (s : State) (offset : BitVec 6) (width : Nat) (v : Word), width ≠ 4 →
    exec (.registerWriteOther offset width v) s = .next s) ∧
  (∀ (s : State) (offset : BitVec 6) (v : Word),
    offset ≠ 0x04 ∧ offset ≠ 0x0C ∧ offset ≠ 0x14 ∧ offset ≠ 0x18 ∧ offset ≠ 0x1C ∧ offset ≠ 0x20 →
    exec (.registerWriteOther offset 4 v) s = .next s) ∧
  (∀ (s : State) (v : Word),
    exec (.registerWriteOther 0x04 4 v) s = exec (.enable v) s ∧
    exec (.registerWriteOther 0x0C 4 v) s = exec (.alertWrite v) s ∧
    exec (.registerWriteOther 0x14 4 v) s = exec (.bootAddressWrite .lo v) s ∧
    exec (.registerWriteOther 0x18 4 v) s = exec (.bootAddressWrite .hi v) s ∧
    exec (.registerWriteOther 0x1C 4 v) s = exec (.producerWrite v) s ∧
    exec (.registerWriteOther 0x20 4 v) s = exec (.consumerWrite v) s) ∧
  (∀ d : Device,
    (d.request = true ↔
      (d.c0.ic = true ∧ d.control.getLsbD 2 = true) ∨ (d.c1.ic = true ∧ d.control.getLsbD 3 = true) ∨
        (d.alert ≠ 0 ∧ d.control.getLsbD 4 = true)) ∧
    (d.intxLine = true ↔ d.request = true ∧ d.link.msi = false ∧ d.link.intxOff = false)) ∧
  ([.init, .booting, .configure, .run, .draining, .halted].map dstateCode = [0, 1, 2, 3, 4, 5] ∧
    [.none, .bootflt, .bootbad, .aringflt, .c0flt].map hreasonCode = [0, 1, 2, 3, 4] ∧
    [.powerOn, .link, .control].map rcauseCode = [0, 1, 2]) ∧
  (∀ d : Device,
    (d.readRegister 0x00 = 0x000112D0 ∧ d.readRegister 0x04 = d.control ∧ d.readRegister 0x0C = d.alert ∧
      d.readRegister 0x10 = d.now ∧ d.readRegister 0x14 = d.bootLo ∧ d.readRegister 0x18 = d.bootHi ∧
      d.readRegister 0x1C = d.producerReg ∧ d.readRegister 0x20 = d.consumerReg) ∧
    ((d.readRegister 0x08).extractLsb' 0 4 = BitVec.ofNat 4 (dstateCode d.dstate) ∧
      (d.readRegister 0x08).extractLsb' 4 4 = BitVec.ofNat 4 (hreasonCode d.hreason) ∧
      (d.readRegister 0x08).extractLsb' 8 4 = BitVec.ofNat 4 (rcauseCode d.rcause) ∧
      (d.readRegister 0x08).getLsbD 12 = d.c0.ic ∧ (d.readRegister 0x08).getLsbD 13 = d.c1.ic ∧
      (d.readRegister 0x08).getLsbD 14 = false ∧ (d.readRegister 0x08).getLsbD 15 = d.request ∧
      (d.readRegister 0x08).extractLsb' 16 16 = 0) ∧
    (∀ offset : BitVec 6, 0x24 ≤ offset.toNat → d.readRegister offset = 0) ∧
    (∀ (offset : BitVec 6) (i : Nat), offset.toNat % 4 + i < 4 → ∀ width, i < width →
      (d.readBytes offset width)[i]? =
        some (byteAt (d.readRegister (BitVec.ofNat 6 (4 * (offset.toNat / 4)))) (offset.toNat % 4 + i))))

/-! ## Taking and answering records -/

/-- The head record of a ring is taken exactly when R53's conditions hold, into the lowest-numbered free slot of its
pool (R44); where they do not hold the ring stalls, and its taking command changes nothing (R54, log 4). -/
def Obligations.TakingConditions : Prop :=
  (∀ (d : Device) (r : RingId) (head : RawRecord) (rest : List RawRecord) (a : Slot),
    d.taken? r = some (head, rest, a) ↔
      d.rings[r].buf = head :: rest ∧ d.rings[r].state = .active ∧
      (r ≠ 0 → d.dstate = .run ∧ a.val < 60 ∧ d.held r < d.rings[r].quota ∧
        (fenceOf head = true → d.liveCount r = 0)) ∧
      (r = 0 → (d.dstate = .configure ∨ d.dstate = .run) ∧ 60 ≤ a.val ∧
        ∀ (b : Slot) (e : Entry), 60 ≤ b.val → d.slots[b] = some e → e.st ≠ .adminActive) ∧
      d.slots[a] = none ∧
      ∀ b : Slot, b.val < a.val → (r = 0 → 60 ≤ b.val) → d.slots[b] ≠ none) ∧
  (∀ (s : State) (r : RingId) (head : RawRecord) (rest : List RawRecord),
    s.dev.rings[r].buf = head :: rest → s.dev.taken? r = none → exec (takingCommand r head) s = .next s)

/-- The taking event's own part: the head record leaves the buffer, the tail advances modulo the ring's size, and the
slot holds the ring, the old tail and the record, in the state INTAKE that stands within the event alone (the model's
choice, log 5); nothing else changes. A change of LEVEL opens or restarts the settle
window of a NORMAL point with READBACK on, and a level that is already there changes nothing (R45, R53, R15). -/
def Obligations.TakenRecordAndDrivenLevel : Prop :=
  (∀ (d : Device) (r : RingId) (a : Slot) (head : RawRecord) (rest : List RawRecord),
    d.takeHead r a head rest =
      { d with
        rings := d.rings.set r { d.rings[r] with buf := rest, tail := (d.rings[r].tail + 1) % d.rings[r].size }
        slots := d.slots.set a (some { ring := r, pos := d.rings[r].tail, record := head, st := .intake }) }) ∧
  (∀ (d : Device) (p : PointId) (l : Bool),
    d.driveLevel p l =
      if d.points[p].level = l then d
      else
        { d with
          points := d.points.set p
            { d.points[p] with
              level := l
              window :=
                if d.points[p].readback = true ∧ d.points[p].pstate = .normal then some (d.now + 200)
                else d.points[p].window } })

/-- An answer sets STATUS, DETAIL and the decision time, withdraws the entry's Timing List entry and puts the slot at
the end of its completion ring's queue; the entry is freed instead when that ring is FAULTED (R42, R51, R69, R158). -/
def Obligations.AnswerJoinsQueue : Prop :=
  ∀ (d : Device) (a : Slot) (e : Entry) (st : Status) (x : Word) (n : CRingId),
    d.slots[a] = some e → n = (if e.ring = 0 then .c0 else d.rings[e.ring].bound) →
    ((d.cring n).state ≠ .faulted →
      d.answer a st x =
        ({ d with
            slots := d.slots.set a (some { e with st := .answered ⟨st, x, d.now⟩ })
            timing := d.timing.filter (fun t => t.owner != a) } : Device).setCRing n
          { d.cring n with queue := (d.cring n).queue ++ [a] }) ∧
    ((d.cring n).state = .faulted →
      d.answer a st x =
        { d with slots := d.slots.set a none, timing := d.timing.filter (fun t => t.owner != a) })

/-- A record of an action kind that fails validation is answered BADREC with DETAIL 0, and so is one whose KIND names
no kind of its ring's class, on any ring (R30, R179, R192). Validation accepts a record exactly when its bytes hold
what the table of R29 and the layout of 12.1 admit (R24, R25, R26, R27, R28, R29), the KIND codes are those of 12.2,
and the flags and fields stand in the bytes of 12.1. -/
def Obligations.MalformedRecordsAnswerBadrec : Prop :=
  (∀ (k : ActionKind) (r : RawRecord), validAction k r = true ↔ ActionFields k r) ∧
  (∀ (k : ActionKind) (r : RawRecord), actionKindOf r = some k ↔ (byteAt r 0).toNat = actionKindCode k) ∧
  (∀ r : RawRecord, fenceOf r = (byteAt r 1).getLsbD 0 ∧ supersedeOf r = (byteAt r 1).getLsbD 1 ∧
    waitGateOf r = (byteAt r 1).getLsbD 2 ∧ trigOf r = (byteAt r 1).getLsbD 3 ∧
    ((byteAt r 4).toNat ≤ 63 → (pointOf r).val = (byteAt r 4).toNat) ∧ cyclesOf r = (byteAt r 8).toNat ∧
    ((byteAt r 9).toNat ≤ 31 → (trigInOf r).val = (byteAt r 9).toNat)) ∧
  (∀ (s : State) (k : ActionKind) (r : RingId) (head : RawRecord) (rest : List RawRecord) (a : Slot),
    s.dev.TakesAction k r head rest a → validAction k head = false →
    Closes (actionCommand r (some k)) s ((s.dev.takeHead r a head rest).answer a .badrec 0)) ∧
  (∀ (s : State) (r : RingId) (head : RawRecord) (rest : List RawRecord) (a : Slot),
    s.dev.Takes r head rest a → (if r = 0 then adminKindOf head = none else actionKindOf head = none) →
    Closes (.unknownKind r) s ((s.dev.takeHead r a head rest).answer a .badrec 0))

/-- The Zone Table's answer: the governing zone is the lowest-numbered one the point matches; it grants when it lists
the ring and permits the effect class, it refuses DENIED otherwise, and without a governing zone the answer is NOZONE
(R118, R119). The on-effects are SET, PULSE, DELAY_SET and BLINK. The on-effects are SET, PULSE, DELAY_SET and BLINK
(R119). -/
def Obligations.ZoneTableAnswers : Prop :=
  (∀ k : ActionKind, isOnEffect k = true ↔ k = .set ∨ k = .pulse ∨ k = .delaySet ∨ k = .blink) ∧
  ∀ (d : Device) (r : RingId) (onEffect : Bool) (p : PointId), r ≠ 0 →
    ((∀ z : Fin 8, d.zones[z].covers p = false) → d.zoneRefusal r onEffect p = some .nozone) ∧
    (∀ z : Fin 8, d.zones[z].covers p = true → (∀ y : Fin 8, y < z → d.zones[y].covers p = false) →
      d.zoneRefusal r onEffect p =
        if d.zones[z].rings.getLsbD (r.val - 1) = true ∧
            (if onEffect then d.zones[z].onok else d.zones[z].offok) = true then none
        else some .denied) ∧
    (∀ z : Fin 8, d.zones[z].covers p = true ↔
      d.zones[z].en = true ∧ d.zones[z].base ≤ p.val ∧ p.val < d.zones[z].base + d.zones[z].size)

/-- A valid output-kind record that a check refuses is answered in its intake event and changes nothing else: the zone
check's NOZONE or DENIED, and without a trigger PTFLT, GATED with the group number, and BUSY (R32, R5, R6, R7, R94).
The commands are SET, CLEAR, PULSE, DELAY_SET, DELAY_CLEAR and BLINK. -/
def Obligations.RefusedActionsTouchNothing : Prop :=
  ∀ (s : State) (k : ActionKind) (r : RingId) (head : RawRecord) (rest : List RawRecord) (a : Slot),
    s.dev.TakesAction k r head rest a → isOutputKind k = true → validAction k head = true →
    (∀ st, s.dev.zoneRefusal r (isOnEffect k) (pointOf head) = some st →
      Closes (actionCommand r (some k)) s ((s.dev.takeHead r a head rest).answer a st 0)) ∧
    (s.dev.zoneRefusal r (isOnEffect k) (pointOf head) = none → trigOf head = false →
      (s.dev.points[pointOf head].pstate = .faulted →
        Closes (actionCommand r (some k)) s ((s.dev.takeHead r a head rest).answer a .ptflt 0)) ∧
      (s.dev.points[pointOf head].pstate = .normal → isOnEffect k = true →
        s.dev.gateOpen s.dev.points[pointOf head].group = false → waitGateOf head = false →
        Closes (actionCommand r (some k)) s
          ((s.dev.takeHead r a head rest).answer a .gated (BitVec.ofNat 32 s.dev.points[pointOf head].group.val))) ∧
      (s.dev.PassesChecks k head → s.dev.points[pointOf head].claim ≠ none → supersedeOf head = false →
        Closes (actionCommand r (some k)) s ((s.dev.takeHead r a head rest).answer a .busy 0)))

/-- SET sets LEVEL ON and CLEAR sets it OFF; both are answered DONE with DETAIL 0 in the event and leave CLAIM none. A
level that is already there is left as it is. A CLEAR with SUPERSEDE that cancelled a claim leaves the point OFF and
unclaimed (R9). -/
def Obligations.SetAndClear : Prop :=
  (∀ (s : State) (r : RingId) (head : RawRecord) (rest : List RawRecord) (a : Slot),
    s.dev.TakesAction .set r head rest a → s.dev.ReachesEffect .set r head →
    Closes (.set r) s (((s.dev.takeHead r a head rest).driveLevel (pointOf head) true).answer a .done 0)) ∧
  (∀ (s : State) (r : RingId) (head : RawRecord) (rest : List RawRecord) (a : Slot),
    s.dev.TakesAction .clear r head rest a → s.dev.ReachesEffect .clear r head →
    Closes (.clear r) s (((s.dev.takeHead r a head rest).driveLevel (pointOf head) false).answer a .done 0)) ∧
  (∀ (d : Device) (p : PointId) (l : Bool),
    (d.driveLevel p l).points[p].level = l ∧ (d.driveLevel p l).points[p].claim = d.points[p].claim ∧
      (d.points[p].level = l → d.driveLevel p l = d)) ∧
  (∀ (s : State) (r : RingId) (head : RawRecord) (rest : List RawRecord) (a : Slot),
    s.dev.TakesAction .clear r head rest a → s.dev.Grants .clear r head → trigOf head = false →
    s.dev.points[pointOf head].pstate = .normal → s.dev.points[pointOf head].claim ≠ none →
    supersedeOf head = true → s.dev.busReady = true →
    ∃ t, exec (.clear r) s = .next t ∧ t.dev.points[pointOf head].level = false ∧
      t.dev.points[pointOf head].claim = none)

/-- PULSE, DELAY_SET, DELAY_CLEAR and BLINK claim their point and become TIMED with an OUTPUT_TIMER due at now + d in
place of any deadline; PULSE and BLINK set LEVEL ON, the delays leave it, and BLINK begins in phase ON with CYCLES
cycles remaining (R4, R10, R11, R12, R68). The length d is COUNT and a deadline's length LIMIT, each times the ticks
of its unit (R25, R27). A time is before another when their signed difference is negative (R64). A timer is inserted
behind every entry that is not due after it, which keeps a list in order of due time while the times lie within half
the range of the comparison (R67). -/
def Obligations.TimedKindsClaimPoint : Prop :=
  (∀ (r : RawRecord) (i u : Nat), [10, 100, 1000, 10000][i]? = some u →
    ((byteAt r 5).toNat = i → (durationOf r).toNat = (halfAt r 6).toNat * u) ∧
    ((byteAt r 11).toNat = i → (limitOf r).toNat = (halfAt r 12).toNat * u)) ∧
  (∀ x y : Time, (timeBefore x y = true ↔ (x - y).toInt < 0) ∧ (timeReached x y = true ↔ 0 ≤ (x - y).toInt)) ∧
  (∀ (t : TimerEntry) (l : List TimerEntry), ∃ front back : List TimerEntry,
    l = front ++ back ∧ insertTimer t l = front ++ t :: back ∧ (∀ x ∈ front, timeBefore t.due x.due = false) ∧
    ∀ x ∈ back.head?, timeBefore t.due x.due = true) ∧
  (∀ (t : TimerEntry) (l : List TimerEntry) (start : Time),
    (∀ x ∈ t :: l, (x.due - start).toNat < 2 ^ 31) → l.Pairwise (fun x y => timeBefore y.due x.due = false) →
    (insertTimer t l).Pairwise (fun x y => timeBefore y.due x.due = false)) ∧
  ∀ (s : State) (k : ActionKind) (r : RingId) (head : RawRecord) (rest : List RawRecord) (a : Slot)
    (blink : Option Blink) (x : Device),
    s.dev.TakesAction k r head rest a → s.dev.ReachesEffect k r head →
    ((k = .pulse ∧ blink = none ∧ x = (s.dev.takeHead r a head rest).driveLevel (pointOf head) true) ∨
      ((k = .delaySet ∨ k = .delayClear) ∧ blink = none ∧ x = s.dev.takeHead r a head rest) ∨
      (k = .blink ∧ blink = some ⟨true, cyclesOf head⟩ ∧
        x = (s.dev.takeHead r a head rest).driveLevel (pointOf head) true)) →
    Closes (actionCommand r (some k)) s
      { x with
        points := x.points.set (pointOf head) { x.points[pointOf head] with claim := some a }
        slots := x.slots.set a (some (s.dev.entryOf r head (.timed blink)))
        timing := insertTimer ⟨a, .outputTimer, s.dev.now + durationOf head⟩
          (s.dev.timing.filter (fun t => t.owner != a)) }

/-- An output-kind record with SUPERSEDE that meets a claim cancels the claiming entry with CXSUPER, its timer
withdrawn and the level left, and then has its own effect (R7, R8). The commands are SET, CLEAR, PULSE, DELAY_SET,
DELAY_CLEAR and BLINK. The effect of each kind, of an entry taken or released, is as it is on an unclaimed point: SET
and CLEAR drive the level and answer DONE; a timed kind drives the level ON for PULSE and BLINK, becomes TIMED, claims
the point and puts its OUTPUT_TIMER in place of any deadline (R4, R9, R10, R11, R12, R68). -/
def Obligations.SupersedeCancelsClaim : Prop :=
  (∀ (s : State) (k : ActionKind) (r : RingId) (head : RawRecord) (rest : List RawRecord) (a b : Slot),
    s.dev.TakesAction k r head rest a → isOutputKind k = true → s.dev.Grants k r head → trigOf head = false →
    s.dev.PassesChecks k head → s.dev.points[pointOf head].claim = some b → supersedeOf head = true →
    Closes (actionCommand r (some k)) s
      ((((s.dev.takeHead r a head rest).setPoint (pointOf head)
        { s.dev.points[pointOf head] with claim := none }).answer b .cxsuper 0).effect a
          (s.dev.entryOf r head .intake))) ∧
  ∀ (d x : Device) (a : Slot) (e entry : Entry) (k : ActionKind) (p : PointId) (blink : Option Blink),
    actionKindOf e.record = some k → p = pointOf e.record → d.slots[a] = some entry →
    x = (if k = .pulse ∨ k = .blink then d.driveLevel p true else d) →
    blink = (if k = .blink then some ⟨true, cyclesOf e.record⟩ else none) →
    (k = .set → d.effect a e = (d.driveLevel p true).answer a .done 0) ∧
    (k = .clear → d.effect a e = (d.driveLevel p false).answer a .done 0) ∧
    (k = .pulse ∨ k = .delaySet ∨ k = .delayClear ∨ k = .blink →
      d.effect a e =
        { x with
          points := x.points.set p { x.points[p] with claim := some a }
          slots := d.slots.set a (some { entry with st := .timed blink })
          timing := insertTimer ⟨a, .outputTimer, d.now + durationOf e.record⟩
            (d.timing.filter (fun t => t.owner != a)) })

/-- An on-effect with WAITGATE that meets a CLOSED gate becomes GATE_WAIT at the end of the group's wait list, with
its deadline when LIMIT is nonzero; its point is not touched (R6, R33, R93). The commands are SET, PULSE, DELAY_SET
and BLINK. -/
def Obligations.ClosedGateWaits : Prop :=
  ∀ (s : State) (k : ActionKind) (r : RingId) (head : RawRecord) (rest : List RawRecord) (a : Slot) (g : Fin 7),
    s.dev.TakesAction k r head rest a → s.dev.Grants k r head → trigOf head = false → isOnEffect k = true →
    s.dev.points[pointOf head].pstate = .normal → s.dev.points[pointOf head].group = g.succ →
    s.dev.groups[g].gate = false → waitGateOf head = true →
    Closes (actionCommand r (some k)) s
      { s.dev.takeHead r a head rest with
        slots := s.dev.slots.set a (some (s.dev.entryOf r head .gateWait))
        groups := s.dev.groups.set g { s.dev.groups[g] with waits := s.dev.groups[g].waits ++ [a] }
        timing :=
          if halfAt head 12 = 0 then s.dev.timing
          else insertTimer ⟨a, .deadline, s.dev.now + limitOf head⟩ s.dev.timing }

/-- A granted output-kind record with TRIG, and a valid NOTE, becomes TRIGGER_WAIT at the end of the trigger waits of
its input, with its deadline when LIMIT is nonzero; no point is examined or touched (R33, R35, R36, R107). -/
def Obligations.TriggerWaits : Prop :=
  ∀ (s : State) (k : ActionKind) (r : RingId) (head : RawRecord) (rest : List RawRecord) (a : Slot),
    s.dev.TakesAction k r head rest a →
    (k = .note ∧ validAction .note head = true ∨
      isOutputKind k = true ∧ s.dev.Grants k r head ∧ trigOf head = true) →
    Closes (actionCommand r (some k)) s
      { s.dev.takeHead r a head rest with
        slots := s.dev.slots.set a (some (s.dev.entryOf r head .triggerWait))
        inputs := s.dev.inputs.set (trigInOf head)
          { s.dev.inputs[trigInOf head] with waits := s.dev.inputs[trigInOf head].waits ++ [a] }
        timing :=
          if halfAt head 12 = 0 then s.dev.timing
          else insertTimer ⟨a, .deadline, s.dev.now + limitOf head⟩ s.dev.timing }

/-- A valid KEEPALIVE restarts the countdown at now + INTERVAL x 100 ticks in OK and is answered DONE, is answered
DONE in OFF and LAPSED in LAPSED (R34, R128). -/
def Obligations.KeepaliveAnswers : Prop :=
  ∀ (s : State) (r : RingId) (head : RawRecord) (rest : List RawRecord) (a : Slot),
    s.dev.TakesAction .keepalive r head rest a → validAction .keepalive head = true →
    (s.dev.sup.supv = .ok →
      Closes (.keepalive r) s
        (({ s.dev.takeHead r a head rest with
            sup :=
              { s.dev.sup with
                countdown := some (s.dev.now + BitVec.ofNat 32 (s.dev.sup.interval.toNat * 100)) } } : Device).answer
          a .done 0)) ∧
    (s.dev.sup.supv = .off → Closes (.keepalive r) s ((s.dev.takeHead r a head rest).answer a .done 0)) ∧
    (s.dev.sup.supv = .lapsed → Closes (.keepalive r) s ((s.dev.takeHead r a head rest).answer a .lapsed 0))

/-! ## Admin records -/

/-- The permission table of 11.4, and the ASTATE of an admin record of a kind that it does not permit in the present
state, whatever its parameters (R179). -/
def Obligations.AdminRefusedByState : Prop :=
  (∀ (s : State) (k : AdminKind) (head : RawRecord) (rest : List RawRecord) (a : Slot),
    s.dev.TakesAdmin k head rest a → s.dev.adminPermitted k = false →
    Closes (adminCommand (some k)) s ((s.dev.takeHead 0 a head rest).answer a .astate 0)) ∧
  (∀ (d : Device) (k : AdminKind), d.adminPermitted k = true ↔
    (d.dstate = .configure ∧ k ≠ .enterConfigure ∧ k ≠ .restoreSupervision) ∨
    (d.dstate = .run ∧
      (k = .enterConfigure ∨ k = .restoreSupervision ∨ k = .forceGroup ∨ k = .clearPointFault ∨ k = .ringReset ∨
        k = .snapshot ∨ k = .digest)))

/-- A permitted admin record that fails its kind's own checks is answered BADREC with DETAIL 0 and changes nothing
else (R179). The checks accept a record exactly when its bytes hold what the rule of its kind and the layout of 12.1
admit, every other byte zero (R2, R82, R83, R104, R117, R137, R150, R157, R180, R186, R192 among them), and the KIND
codes are those of 12.2. -/
def Obligations.AdminRefusedByParameters : Prop :=
  (∀ (k : AdminKind) (r : RawRecord), adminOk k r = true ↔ AdminFields k r) ∧
  (∀ (k : AdminKind) (r : RawRecord), adminKindOf r = some k ↔ (byteAt r 0).toNat = adminKindCode k) ∧
  ∀ (s : State) (k : AdminKind) (head : RawRecord) (rest : List RawRecord) (a : Slot),
    s.dev.TakesAdmin k head rest a → s.dev.adminPermitted k = true → adminOk k head = false →
    Closes (adminCommand (some k)) s ((s.dev.takeHead 0 a head rest).answer a .badrec 0)

/-- CONFIGURE_RING makes a DISABLED action ring ACTIVE with the record's base, size, binding and quota, empty, and is
answered ASTATE for a ring that is not DISABLED; CONFIGURE_COMPLETION makes C1 ACTIVE and empty with the record's
base, size, THRESH and DELAY (R137, R157). -/
def Obligations.RingsConfigured : Prop :=
  ∀ (s : State) (head : RawRecord) (rest : List RawRecord) (a : Slot), s.dev.dstate = .configure →
    (∀ r : RingId, s.dev.TakesAdmin .configureRing head rest a → configureRingOk head = true →
      r.val = (byteAt head 4).toNat →
      (s.dev.rings[r].state = .disabled →
        Closes .configureRing s
          (((s.dev.takeHead 0 a head rest).setRing r
            { state := .active, base := addrAt head 16, size := (halfAt head 8).toNat,
              bound := if byteAt head 5 = 1 then .c1 else .c0, quota := (byteAt head 6).toNat, producer := 0,
              tail := 0, buf := [], cause := .none }).answer a .done 0)) ∧
      (s.dev.rings[r].state ≠ .disabled →
        Closes .configureRing s ((s.dev.takeHead 0 a head rest).answer a .astate 0))) ∧
    (s.dev.TakesAdmin .configureCompletion head rest a → configureCompletionOk head = true →
      Closes .configureCompletion s
        (({ s.dev.takeHead 0 a head rest with
            c1 :=
              { state := .active, base := addrAt head 16, size := (halfAt head 8).toNat, producer := 0, consumer := 0,
                phase := true, thresh := (byteAt head 5).toNat, delay := (byteAt head 6).toNat, countdown := none,
                ic := false, queue := [], inflight := none } } : Device).answer a .done 0))

/-- DEFINE_POINT replaces GROUP, MODE and READBACK and opens or closes the settle window; DEFINE_INPUT replaces
DEBOUNCE and INVERT and restarts the levels from the pin; CLEAR_POINT_FAULT makes its point NORMAL and OFF and opens a
window when READBACK is on (R2, R104, R19). -/
def Obligations.PointsAndInputsDefined : Prop :=
  ∀ (s : State) (head : RawRecord) (rest : List RawRecord) (a : Slot),
    (∀ p : PointId, s.dev.TakesAdmin .definePoint head rest a → s.dev.dstate = .configure →
      definePointOk head = true → p.val = (byteAt head 4).toNat →
      Closes .definePoint s
        (((s.dev.takeHead 0 a head rest).setPoint p
          { s.dev.points[p] with
            group := Fin.ofNat 8 (byteAt head 5).toNat
            mode := if byteAt head 6 = 1 then .held else .plain
            readback := byteAt head 7 == 1
            window :=
              if byteAt head 7 = 0 then none
              else if s.dev.points[p].readback = false ∧ s.dev.points[p].pstate = .normal then some (s.dev.now + 200)
              else s.dev.points[p].window }).answer a .done 0)) ∧
    (∀ i : InputId, s.dev.TakesAdmin .defineInput head rest a → s.dev.dstate = .configure →
      defineInputOk head = true → i.val = (byteAt head 4).toNat →
      Closes .defineInput s
        (((s.dev.takeHead 0 a head rest).setInput i
          { s.dev.inputs[i] with
            debounce := byteAt head 5
            invert := byteAt head 6 == 1
            raw := s.dev.inputs[i].pin != (byteAt head 6 == 1)
            qualified := s.dev.inputs[i].pin != (byteAt head 6 == 1)
            pendingSince := none }).answer a .done 0)) ∧
    (∀ p : PointId, s.dev.TakesAdmin .clearPointFault head rest a →
      s.dev.dstate = .configure ∨ s.dev.dstate = .run → clearPointFaultOk head = true →
      p.val = (byteAt head 4).toNat →
      Closes .clearPointFault s
        (((s.dev.takeHead 0 a head rest).setPoint p
          { s.dev.points[p] with
            pstate := .normal
            level := false
            window := if s.dev.points[p].readback then some (s.dev.now + 200) else s.dev.points[p].window }).answer
          a .done 0))

/-- DEFINE_ZONE replaces a zone's six fields; SET_SUPERVISION replaces INTERVAL; DEFINE_GROUP replaces a group's
expression, or is answered AORDER when a GATE literal names the group itself or a higher one (R117, R125, R82). A
literal slot byte holds the index in bits 0 to 4, the literal kind in bits 5 and 6 and the negation in bit 7
(12.1). -/
def Obligations.ZonesGroupsAndIntervalDefined : Prop :=
  (∀ b : Byte,
    (b = 0 → literalOf b = some .unused) ∧
    (∀ i : InputId, b.toNat % 128 = 32 + i.val → literalOf b = some (.input i (b.getLsbD 7))) ∧
    (∀ g : Fin 8, b.toNat % 128 = 64 + g.val → literalOf b = some (.gate g (b.getLsbD 7))) ∧
    (b.toNat % 128 = 96 → literalOf b = some (.supok (b.getLsbD 7)))) ∧
  ∀ (s : State) (head : RawRecord) (rest : List RawRecord) (a : Slot), s.dev.dstate = .configure →
    (∀ z : Fin 8, s.dev.TakesAdmin .defineZone head rest a → defineZoneOk head = true →
      z.val = (byteAt head 4).toNat →
      Closes .defineZone s
        (({ s.dev.takeHead 0 a head rest with
            zones := s.dev.zones.set z
              { en := byteAt head 5 == 1, base := (byteAt head 6).toNat, size := (byteAt head 7).toNat,
                rings := (byteAt head 8).extractLsb' 0 4, onok := byteAt head 9 == 1,
                offok := byteAt head 10 == 1 } } : Device).answer a .done 0)) ∧
    (s.dev.TakesAdmin .setSupervision head rest a → adminReservedOk .setSupervision head = true →
      Closes .setSupervision s
        (({ s.dev.takeHead 0 a head rest with sup := { s.dev.sup with interval := halfAt head 4 } } : Device).answer
          a .done 0)) ∧
    (∀ (k : Fin 7) (lits : Vector Literal 16), s.dev.TakesAdmin .defineGroup head rest a → defineGroupOk head = true →
      k.val + 1 = (byteAt head 4).toNat → (∀ i : Fin 16, literalOf (byteAt head (6 + i.val)) = some lits[i]) →
      ((∀ (i : Fin 16) (g : Fin 8) (neg : Bool), lits[i] = .gate g neg → g.val < k.val + 1) →
        Closes .defineGroup s
          (((s.dev.takeHead 0 a head rest).setGroup k
            { s.dev.groups[k] with terms := (byteAt head 5).toNat, lits := lits }).answer a .done 0)) ∧
      ((∃ (i : Fin 16) (g : Fin 8) (neg : Bool), lits[i] = .gate g neg ∧ k.val + 1 ≤ g.val) →
        Closes .defineGroup s ((s.dev.takeHead 0 a head rest).answer a .aorder 0)))

/-- A well-formed ENTER_RUN in CONFIGURE that fails a check is answered and changes nothing else: ACQNR for an ACTIVE
ring bound to a completion ring that is not ACTIVE; then, with STRICT, AOVLP with the lowest overlapping pair of
enabled zones; then, with DIGEST_PRESENT, ADIGEST. Two enabled zones overlap when the larger BASE is below the smaller
end (R121, R180). -/
def Obligations.EnterRunRefusals : Prop :=
  (∀ x y : Zone, zonesOverlap x y = true ↔
    x.en = true ∧ y.en = true ∧ x.base < y.base + y.size ∧ y.base < x.base + x.size ∧ x.base < x.base + x.size ∧
      y.base < y.base + y.size) ∧
  ∀ (s : State) (head : RawRecord) (rest : List RawRecord) (a : Slot),
    s.dev.TakesAdmin .enterRun head rest a → s.dev.dstate = .configure → enterRunOk head = true →
    ((∃ r : RingId, r ≠ 0 ∧ s.dev.rings[r].state = .active ∧ (s.dev.cring s.dev.rings[r].bound).state ≠ .active) →
      Closes .enterRun s ((s.dev.takeHead 0 a head rest).answer a .acqnr 0)) ∧
    ((∀ r : RingId, r ≠ 0 → s.dev.rings[r].state = .active →
        (s.dev.cring s.dev.rings[r].bound).state = .active) →
      (∀ i j : Fin 8, strictOf head = true → i < j → zonesOverlap s.dev.zones[i] s.dev.zones[j] = true →
        (∀ x y : Fin 8, x < y → zonesOverlap s.dev.zones[x] s.dev.zones[y] = true → i < x ∨ i = x ∧ j ≤ y) →
        Closes .enterRun s
          ((s.dev.takeHead 0 a head rest).answer a .aovlp (BitVec.ofNat 32 (i.val + 256 * j.val)))) ∧
      ((strictOf head = true → ∀ x y : Fin 8, x < y → zonesOverlap s.dev.zones[x] s.dev.zones[y] = false) →
        digestPresentOf head = true → s.dev.digestValue ≠ expectedDigestOf head →
        Closes .enterRun s ((s.dev.takeHead 0 a head rest).answer a .adigest 0)))

/-- A well-formed ENTER_RUN that passes its checks makes the block RUN, starts supervision, and opens exactly the
groups whose expression is true and whose FORCE is clear; it is answered DONE and changes nothing else. Premises: what
holds in every quiet CONFIGURE state (R84, R126, R180). -/
def Obligations.EnterRunOpensGates : Prop :=
  ∀ (s : State) (head : RawRecord) (rest : List RawRecord) (a : Slot),
    s.dev.TakesAdmin .enterRun head rest a → s.dev.dstate = .configure → enterRunOk head = true →
    (∀ r : RingId, r ≠ 0 → s.dev.rings[r].state = .active → (s.dev.cring s.dev.rings[r].bound).state = .active) →
    (strictOf head = true → ∀ x y : Fin 8, x < y → zonesOverlap s.dev.zones[x] s.dev.zones[y] = false) →
    (digestPresentOf head = true → s.dev.digestValue = expectedDigestOf head) →
    s.dev.QuietOutsideRun → s.dev.GatesOrdered →
    ∃ (gates : Vector Bool 7) (x : Device),
      x = { s.dev.takeHead 0 a head rest with
            dstate := .run
            sup :=
              if s.dev.sup.interval = 0 then { s.dev.sup with supv := .off, countdown := none }
              else
                { s.dev.sup with
                  supv := .ok
                  countdown := some (s.dev.now + BitVec.ofNat 32 (s.dev.sup.interval.toNat * 100)) }
            groups := Vector.ofFn (fun k : Fin 7 => { s.dev.groups[k] with gate := gates[k] }) } ∧
      (∀ k : Fin 7, gates[k] = x.groupValue k) ∧ Closes .enterRun s (x.answer a .done 0)

/-- A well-formed ENTER_CONFIGURE in RUN, with the bus ready, starts the drain: every live action entry is answered
CXMODE in ascending slot order, or freed, the answered ones stay, every point is OFF, with a settle window opened
where an ON point with READBACK on was NORMAL, and unclaimed (with the ties that TableKept keeps), gates are CLOSED,
waits, timers and prefetch buffers are gone, supervision is OFF, and the block is DRAINING, or CONFIGURE when no
action entry remains, with the ENTER_CONFIGURE's own answer last in C0's queue; configuration, FORCE, PSTATE, ring
states and indices are kept (R8, R15, R20, R146, R181, R182). -/
def Obligations.EnterConfigureStartsDrain : Prop :=
  ∀ (s : State) (head : RawRecord) (rest : List RawRecord) (a : Slot),
    s.dev.TakesAdmin .enterConfigure head rest a → s.dev.dstate = .run → s.dev.busReady = true →
    adminReservedOk .enterConfigure head = true →
    ∃ t, exec .enterConfigure s = .next t ∧ t.pending = s.pending ∧
      (t.dev.dstate = .configure ∧ (∀ b : Slot, b.val < 60 → t.dev.slots[b] = none) ∨
        t.dev.dstate = .draining ∧ (∃ b : Slot, b.val < 60 ∧ t.dev.slots[b] ≠ none) ∧
          t.dev.slots[a] = some (s.dev.entryOf 0 head .adminActive)) ∧
      (∀ (b : Slot) (e : Entry), b.val < 60 → s.dev.slots[b] = some e →
        t.dev.slots[b] =
          if e.isLive = true then
            (if (s.dev.cring (s.dev.binding e.ring)).state = .faulted then none
             else some { e with st := .answered ⟨.cxmode, 0, s.dev.now⟩ })
          else some e) ∧
      (∀ b : Slot, b.val < 60 → s.dev.slots[b] = none → t.dev.slots[b] = none) ∧
      (∀ n : CRingId,
        (t.dev.cring n).queue =
          (s.dev.cring n).queue ++
            (if (s.dev.cring n).state = .faulted then []
             else
               (List.finRange 64).filter
                   (fun b => decide (b.val < 60) &&
                     s.dev.slots[b].any (fun e => e.isLive && decide (s.dev.binding e.ring = n))) ++
                 (if n = .c0 ∧ t.dev.dstate = .configure then [a] else []))) ∧
      (∀ p : PointId, t.dev.points[p] =
        { s.dev.points[p] with
          level := false
          claim := t.dev.points[p].claim
          window :=
            if s.dev.points[p].level = true ∧ s.dev.points[p].readback = true ∧ s.dev.points[p].pstate = .normal then
              some (s.dev.now + 200)
            else s.dev.points[p].window }) ∧
      (s.dev.ClaimsTied → s.dev.TimersTied → ∀ p : PointId, t.dev.points[p].claim = none) ∧
      (∀ k : Fin 7, t.dev.groups[k] = { s.dev.groups[k] with gate := false, waits := [] }) ∧
      (∀ i : InputId, t.dev.inputs[i] = { s.dev.inputs[i] with waits := [] }) ∧
      t.dev.timing = [] ∧ t.dev.sup = { s.dev.sup with supv := .off, countdown := none } ∧
      (∀ r : RingId, r ≠ 0 → t.dev.rings[r] = { s.dev.rings[r] with buf := [] }) ∧
      (∀ op : ReadOp, s.dev.channel = some op →
        t.dev.channel = some { op with discard := op.discard || decide (op.ring ≠ 0) }) ∧
      t.dev.setup = s.dev.setup ∧ t.dev.alert = s.dev.alert ∧ t.dev.now = s.dev.now

/-- DRAIN_END: with the ENTER_CONFIGURE active and no action entry left, the block becomes CONFIGURE with every point
OFF and the entry is answered DONE; while an action entry remains nothing happens (R50, R182; log 4, log 16). -/
def Obligations.DrainEnds : Prop :=
  ∀ (s : State) (a : Slot) (e : Entry),
    s.dev.adminActive? = some a → s.dev.slots[a] = some e →
    adminKindOf e.record = some .enterConfigure → s.dev.dstate = .draining →
    ((∀ b : Slot, b.val < 60 → s.dev.slots[b] = none) →
      Closes .drainEnd s (({ s.dev.allOff with dstate := .configure } : Device).answer a .done 0)) ∧
    ((∃ b : Slot, b.val < 60 ∧ s.dev.slots[b] ≠ none) → Closes .drainEnd s s.dev)

/-- FORCE_GROUP sets or clears FORCE, with a pass in RUN alone; RESTORE_SUPERVISION sets SUPV OK with the countdown
anew, or OFF with INTERVAL 0, with a pass when SUPV changed; both are answered DONE after the pass. SUPERVISION_LAPSE
sets SUPV LAPSED and ALERT.SUPLAPSE and makes a pass (R83, R127, R130). -/
def Obligations.ForceRestoreAndLapse : Prop :=
  ∀ (s : State) (head : RawRecord) (rest : List RawRecord) (a : Slot),
    (∀ (k : Fin 7) (x : Device), s.dev.TakesAdmin .forceGroup head rest a → forceGroupOk head = true →
      k.val + 1 = (byteAt head 4).toNat →
      x = (s.dev.takeHead 0 a head rest).setGroup k { s.dev.groups[k] with force := byteAt head 5 == 1 } →
      (s.dev.dstate = .configure → Closes .forceGroup s (x.answer a .done 0)) ∧
      (s.dev.dstate = .run → Closes .forceGroup s (x.pass.answer a .done 0))) ∧
    (∀ (v : Supervision) (x : Device), s.dev.TakesAdmin .restoreSupervision head rest a → s.dev.dstate = .run →
      adminReservedOk .restoreSupervision head = true →
      v = (if s.dev.sup.interval = 0 then { s.dev.sup with supv := .off, countdown := none }
           else
             { s.dev.sup with
               supv := .ok
               countdown := some (s.dev.now + BitVec.ofNat 32 (s.dev.sup.interval.toNat * 100)) }) →
      x = { s.dev.takeHead 0 a head rest with sup := v } →
      Closes .restoreSupervision s ((if v.supv = s.dev.sup.supv then x else x.pass).answer a .done 0)) ∧
    (∀ due : Time, s.dev.sup.supv = .ok → s.dev.sup.countdown = some due →
      timeReached s.dev.now due = true →
      Closes .supervisionLapse s
        ({ s.dev with
            sup := { s.dev.sup with supv := .lapsed, countdown := none }
            alert := s.dev.alert ||| 1 } : Device).pass)

/-- A well-formed RING_RESET of an ACTIVE or FAULTED ring becomes ADMIN_ACTIVE, makes the ring RESETTING, drops its
buffer, marks its read discard and answers its live entries CXRESET; the reset ends at once when the ring then holds
no entry (R146, R150, R151). A RING_RESET of a DISABLED ring is answered ASTATE (R150), and so is one of a RESETTING
ring, in a state no run reaches (the model's choice, log 12). -/
def Obligations.RingResetBegins : Prop :=
  ∀ (s : State) (head : RawRecord) (rest : List RawRecord) (a : Slot) (r : RingId) (x : Device),
    s.dev.TakesAdmin .ringReset head rest a → s.dev.dstate = .configure ∨ s.dev.dstate = .run →
    ringResetOk head = true → r.val = (byteAt head 4).toNat →
    (s.dev.rings[r].state = .active ∨ s.dev.rings[r].state = .faulted →
      x = ({ (s.dev.takeHead 0 a head rest).setRing r
              { s.dev.rings[r] with state := .resetting, buf := [] } with
            slots := s.dev.slots.set a (some (s.dev.entryOf 0 head .adminActive))
            channel := s.dev.channel.map
              (fun op => if op.ring = r then { op with discard := true } else op) } : Device).cancelRing r .cxreset →
      Closes .ringReset s (if x.held r = 0 then x.endReset a head else x)) ∧
    (s.dev.rings[r].state = .disabled ∨ s.dev.rings[r].state = .resetting →
      Closes .ringReset s ((s.dev.takeHead 0 a head rest).answer a .astate 0))

/-- RING_RESET_END: with the RING_RESET active and its ring empty of entries, tail and producer are 0 and the ring is
DISABLED with DISABLE set, else ACTIVE, or FAULTED with CQFLT and its ALERT bit when its completion ring is FAULTED;
the entry is answered DONE. While the ring holds an entry nothing happens (R50, R151; log 4, log 16). -/
def Obligations.RingResetEnds : Prop :=
  ∀ (s : State) (a : Slot) (e : Entry) (r : RingId),
    s.dev.adminActive? = some a → s.dev.slots[a] = some e →
    adminKindOf e.record = some .ringReset → ringResetOk e.record = true → r.val = (byteAt e.record 4).toNat →
    s.dev.rings[r].state = .resetting →
    (s.dev.held r = 0 → byteAt e.record 5 = 1 →
      Closes .ringResetEnd s
        ((s.dev.setRing r
          { s.dev.rings[r] with state := .disabled, cause := .none, tail := 0, producer := 0 }).answer a .done 0)) ∧
    (s.dev.held r = 0 → byteAt e.record 5 = 0 → (s.dev.cring s.dev.rings[r].bound).state ≠ .faulted →
      Closes .ringResetEnd s
        ((s.dev.setRing r
          { s.dev.rings[r] with state := .active, cause := .none, tail := 0, producer := 0 }).answer a .done 0)) ∧
    (s.dev.held r = 0 → byteAt e.record 5 = 0 → (s.dev.cring s.dev.rings[r].bound).state = .faulted →
      Closes .ringResetEnd s
        (({ s.dev.setRing r
              { s.dev.rings[r] with state := .faulted, cause := .cqflt, tail := 0, producer := 0 } with
            alert := s.dev.alert ||| (1 : Word) <<< r.val } : Device).answer a .done 0)) ∧
    (s.dev.held r ≠ 0 → Closes .ringResetEnd s s.dev)

/-- The image of a snapshot holds the fields of 12.5 in its 256 bytes, the codes those of 12.2
(`Device.SnapshotHolds`; R194). SNAPSHOT becomes ADMIN_ACTIVE and issues the write of the image captured after that;
its acceptance answers it DONE and its failure ABUF. While the bus is not ready the write cannot be issued and the
SNAPSHOT is answered ABUF in its taking event; when the ABUF's own write to C0 is then due, and none to C1, the event
ends in the halt with C0FLT (R186, R187); that holds even when a read of ring 0 is due too by the model's order C1,
C0, read (its choice, log 7; R185 leaves the order of two halts open). That a write may also fail while the bus is
ready is the model's choice (log 8). -/
def Obligations.SnapshotWritten : Prop :=
  (∀ d : Device, d.SnapshotHolds d.snapshotImage) ∧
  ([.disabled, .active, .faulted, .resetting].map ringStateCode = [0, 1, 2, 3] ∧
    [.none, .fetchflt, .badprod, .regress, .cqflt].map faultCauseCode = [0, 1, 2, 3, 4] ∧
    [.disabled, .active, .faulted].map cringStateCode = [0, 1, 2] ∧ [.off, .ok, .lapsed].map supvCode = [0, 1, 2]) ∧
  (∀ (s : State) (head : RawRecord) (rest : List RawRecord) (a : Slot) (x : Device),
    s.dev.TakesAdmin .snapshot head rest a → s.dev.dstate = .configure ∨ s.dev.dstate = .run →
    snapshotOk head = true →
    x = { s.dev.takeHead 0 a head rest with
          slots := s.dev.slots.set a (some (s.dev.entryOf 0 head .adminActive)) } →
    (s.dev.busReady = true → Closes .snapshot s { x with snapWrite := some ⟨addrAt head 8, x.snapshotImage⟩ }) ∧
    (s.dev.busReady = false →
      Closes .snapshot s (x.answer a .abuf 0) ∧
      ((x.answer a .abuf 0).mayIssue .c1 = false ∨ (x.answer a .abuf 0).queueHead .c1 = none →
        (x.answer a .abuf 0).mayIssue .c0 = true → (x.answer a .abuf 0).queueHead .c0 ≠ none →
        Closes .snapshot s ((x.answer a .abuf 0).halt .c0flt)))) ∧
  (∀ (s : State) (w : SnapWrite) (a : Slot),
    s.dev.snapWrite = some w → s.dev.adminActive? = some a →
    Closes .snapshotWriteAccepted s (({ s.dev with snapWrite := none } : Device).answer a .done 0) ∧
    Closes .snapshotWriteFailed s (({ s.dev with snapWrite := none } : Device).answer a .abuf 0))

/-- DIGEST is answered DONE with the CRC-32 of the configuration serialization in DETAIL. The serialization holds the
fields of 12.6 in its 313 bytes (`Device.ConfigurationHolds`), and after a reset it holds zeros but for each zone's
SIZE 1. The CRC-32 enters its bytes in order, each least significant bit first, into a register of the reflected
polynomial EDB88320h (`crcEnter`), with initial value and final exclusive-or FFFFFFFFh (R188, R193). -/
def Obligations.DigestOfConfiguration : Prop :=
  (∀ (s : State) (head : RawRecord) (rest : List RawRecord) (a : Slot),
    s.dev.TakesAdmin .digest head rest a → s.dev.dstate = .configure ∨ s.dev.dstate = .run →
    adminReservedOk .digest head = true →
    Closes .digest s ((s.dev.takeHead 0 a head rest).answer a .done (crc32 s.dev.serialization))) ∧
  (∀ d : Device, d.ConfigurationHolds d.serialization ∧ d.digestValue = crc32 d.serialization) ∧
  (∀ bytes : List Byte, crc32 bytes =
    (bytes.flatMap (fun b => (List.range 8).map b.getLsbD)).foldl crcEnter 0xFFFFFFFF ^^^ 0xFFFFFFFF) ∧
  (∀ (d t : Device) (cause : RCause), t = d.applyReset cause →
    t.serialization =
      List.replicate 128 0 ++ (List.replicate 8 [0, 0, 1, 0, 0, 0, 0, 0]).flatten ++ List.replicate 121 0)

/-! ## Expiries and the field -/

/-- The expiry of the OUTPUT_TIMER of a PULSE, DELAY_SET or DELAY_CLEAR: the timer is removed, LEVEL is set OFF, ON or
OFF, the claim ends and the entry is answered DONE, with the time of the event as decision time: the due time in every
run (R10, R11, R70, R71; log 15). -/
def Obligations.OutputTimerEndsAction : Prop :=
  ∀ (s : State) (timer : TimerEntry) (others : List TimerEntry) (e : Entry) (b : Option Blink) (l : Bool),
    s.dev.dstate = .run → s.dev.timing = timer :: others → timer.kind = .outputTimer →
    timeReached s.dev.now timer.due = true → s.dev.slots[timer.owner] = some e → e.st = .timed b →
    (actionKindOf e.record = some .pulse ∧ l = false ∨ actionKindOf e.record = some .delaySet ∧ l = true ∨
      actionKindOf e.record = some .delayClear ∧ l = false) →
    Closes .outputTimerExpiry s
      (((({ s.dev with timing := others } : Device).driveLevel (pointOf e.record) l).setClaim (pointOf e.record)
        none).answer timer.owner .done 0)

/-- A BLINK's expiry, by its phase: the end of the last ON phase turns the point OFF, ends the claim and answers DONE;
the end of another ON phase turns it OFF with one cycle fewer; the end of an OFF phase turns it ON. A new OUTPUT_TIMER
is due at the old due time + d. No gate is read (R13). The DONE of the last step carries the time of the event, which
is the due time in every run (R71; DEDUCED, log 15). -/
def Obligations.BlinkSteps : Prop :=
  ∀ (s : State) (timer : TimerEntry) (others : List TimerEntry) (e : Entry) (b : Blink) (x : Device),
    s.dev.dstate = .run → s.dev.timing = timer :: others → timer.kind = .outputTimer →
    timeReached s.dev.now timer.due = true → s.dev.slots[timer.owner] = some e → e.st = .timed (some b) →
    actionKindOf e.record = some .blink → x = { s.dev with timing := others } →
    (b.phaseOn = true → b.remaining = 1 →
      Closes .outputTimerExpiry s
        (((x.driveLevel (pointOf e.record) false).setClaim (pointOf e.record) none).answer timer.owner .done 0)) ∧
    (∀ n : Nat, b.phaseOn = true → b.remaining = n + 2 →
      Closes .outputTimerExpiry s
        { x.driveLevel (pointOf e.record) false with
          slots := s.dev.slots.set timer.owner (some { e with st := .timed (some ⟨false, n + 1⟩) })
          timing := insertTimer ⟨timer.owner, .outputTimer, timer.due + durationOf e.record⟩ others }) ∧
    (b.phaseOn = false →
      Closes .outputTimerExpiry s
        { x.driveLevel (pointOf e.record) true with
          slots := s.dev.slots.set timer.owner (some { e with st := .timed (some ⟨true, b.remaining⟩) })
          timing := insertTimer ⟨timer.owner, .outputTimer, timer.due + durationOf e.record⟩ others })

/-- The expiry of a DEADLINE: its owner leaves its wait, the others keeping their order, and is answered TRGTMO with
DETAIL 0 from TRIGGER_WAIT, or GATETMO with the group number from GATE_WAIT (R73, R74; the decision time: log 15). -/
def Obligations.DeadlineEndsWait : Prop :=
  ∀ (s : State) (timer : TimerEntry) (others : List TimerEntry) (e : Entry) (x : Device),
    s.dev.dstate = .run → s.dev.timing = timer :: others → timer.kind = .deadline →
    timeReached s.dev.now timer.due = true → s.dev.slots[timer.owner] = some e →
    x = { s.dev with
          timing := others
          inputs := s.dev.inputs.map (fun i => { i with waits := i.waits.filter (· != timer.owner) })
          groups := s.dev.groups.map (fun g => { g with waits := g.waits.filter (· != timer.owner) }) } →
    (e.st = .triggerWait → Closes .deadlineExpiry s (x.answer timer.owner .trgtmo 0)) ∧
    (e.st = .gateWait →
      Closes .deadlineExpiry s
        (x.answer timer.owner .gatetmo (BitVec.ofNat 32 s.dev.points[pointOf e.record].group.val)))

/-- Readback: at a settle window's end, and at a sense change with no window open, a NORMAL point with READBACK on
whose sense differs from LEVEL becomes FAULTED and OFF, its window closed, its claim cancelled CXPTFLT, and
ALERT.PTFLT is set; otherwise the window closes, and a sense change does no more. Readback runs in CONFIGURE, RUN and
DRAINING (R16, R17, R20). A window that a LEVEL change of the same tick, a closure's among them, has opened or
restarted is compared at its own end alone (R16; that R16 decides this for a closure too, and R96 where it finds the
fault: DEDUCED, log 17). -/
def Obligations.PointFaultsFound : Prop :=
  ∀ (s : State) (p : PointId) (fault : Device → Device),
    (∀ d : Device, fault d =
      { (match d.points[p].claim with
         | none => d.setPoint p { d.points[p] with pstate := .faulted, window := none, level := false }
         | some a =>
           (d.setPoint p { d.points[p] with pstate := .faulted, window := none, level := false, claim := none }).answer
             a .cxptflt 0) with
        alert := d.alert ||| 0x40 }) →
    (∀ due : Time, s.dev.points[p].window = some due → timeReached s.dev.now due = true →
      (s.dev.points[p].readback = true ∧ s.dev.points[p].pstate = .normal ∧
          s.dev.points[p].sense ≠ s.dev.points[p].level →
        Closes (.settleWindowEnd p) s (fault s.dev)) ∧
      (s.dev.points[p].readback = false ∨ s.dev.points[p].pstate = .faulted ∨
          s.dev.points[p].sense = s.dev.points[p].level →
        Closes (.settleWindowEnd p) s (s.dev.setPoint p { s.dev.points[p] with window := none }))) ∧
    (∀ (l : Bool) (x : Device), l ≠ s.dev.points[p].sense →
      x = s.dev.setPoint p { s.dev.points[p] with sense := l } →
      (s.dev.points[p].readback = true ∧ s.dev.points[p].pstate = .normal ∧ s.dev.points[p].window = none ∧
          l ≠ s.dev.points[p].level ∧
          (s.dev.dstate = .configure ∨ s.dev.dstate = .run ∨ s.dev.dstate = .draining) →
        Closes (.senseChange p l) s (fault x)) ∧
      (s.dev.points[p].readback = false ∨ s.dev.points[p].pstate = .faulted ∨ s.dev.points[p].window ≠ none ∨
          l = s.dev.points[p].level ∨
          (s.dev.dstate = .init ∨ s.dev.dstate = .booting ∨ s.dev.dstate = .halted) →
        Closes (.senseChange p l) s x))

/-- A raw transition changes the pin and the raw level; one that equals the qualified level ends the interval, one
that differs begins an interval, and with DEBOUNCE 0 it is qualified in the same event with the present time as
capture time (R100, R101, R102). The pin is sampled once per tick, so no second transition of it is taken at one tick
(R100; that the command then changes nothing is log 4). -/
def Obligations.RawTransitionHandled : Prop :=
  (∀ (s : State) (i : InputId), s.dev.inputs[i].moved = true → exec (.rawTransition i) s = .next s) ∧
  ∀ (s : State) (i : InputId) (v : Input), s.dev.inputs[i].moved = false →
    v = { s.dev.inputs[i] with
          pin := !s.dev.inputs[i].pin, raw := (!s.dev.inputs[i].pin) != s.dev.inputs[i].invert, moved := true } →
    (v.raw = v.qualified →
      Closes (.rawTransition i) s (s.dev.setInput i { v with pendingSince := none })) ∧
    (v.raw ≠ v.qualified → v.debounce ≠ 0 →
      Closes (.rawTransition i) s (s.dev.setInput i { v with pendingSince := some s.dev.now })) ∧
    (v.raw ≠ v.qualified → v.debounce = 0 →
      Closes (.rawTransition i) s ((s.dev.setInput i v).edge i s.dev.now))

/-- The edge event: the qualified level becomes the raw level and the capture time the start of the interval. Outside
RUN that is all. In RUN a pass follows when a literal names the input, and then the matching trigger waits are taken
out of the list and released in its order: a NOTE is answered DONE with the capture time, an output-kind record runs
the action stage. Before the interval is complete nothing happens (R102, R105, R106, R108, R109, R110; log 4). A
literal names the input when some slot of some group holds it. EDGE 1, 2 and 3 match a rise, a fall and either (R26,
12.2). -/
def Obligations.EdgeEventSteps : Prop :=
  (∀ (rise : Bool) (e : Entry),
    slotMatches rise (some e) = true ↔
      byteAt e.record 10 = 3 ∨ byteAt e.record 10 = (if rise = true then 1 else 2)) ∧
  (∀ (d : Device) (i : InputId), d.inputNamed i = true ↔
    ∃ (k : Fin 7) (j : Fin 16) (neg : Bool), d.groups[k].lits[j] = .input i neg) ∧
  ∀ (s : State) (i : InputId) (since : Time) (x y : Device),
    s.dev.inputs[i].pendingSince = some since →
    x = s.dev.setInput i
      { s.dev.inputs[i] with qualified := s.dev.inputs[i].raw, pendingSince := none, capture := since } →
    y = (if x.inputNamed i then x.pass else x) →
    (timeReached s.dev.now (since + BitVec.ofNat 32 (s.dev.inputs[i].debounce.toNat * 100)) = true →
      (s.dev.dstate ≠ .run → Closes (.edgeEvent i) s x) ∧
      (s.dev.dstate = .run →
        Closes (.edgeEvent i) s
          ((y.inputs[i].waits.filter (fun a => slotMatches s.dev.inputs[i].raw y.slots[a])).foldl
            (fun d a =>
              match d.slots[a] with
              | none => d
              | some e =>
                if actionKindOf e.record = some .note then d.answer a .done since else d.actionStage a)
            (y.setInput i
              { y.inputs[i] with
                waits := y.inputs[i].waits.filter (fun a => !slotMatches s.dev.inputs[i].raw y.slots[a]) })))) ∧
    (timeReached s.dev.now (since + BitVec.ofNat 32 (s.dev.inputs[i].debounce.toNat * 100)) = false →
      exec (.edgeEvent i) s = .next s)

/-! ## The bus -/

/-- COALESCING_DELAY_EXPIRY sets ICn and stops the countdown. COMPLETION_WRITE_ACCEPTED frees the head entry, advances
the producer, flips the phase at the wrap, and coalesces: ICn at THRESH with the countdown stopped, else the countdown
started when DELAY is above 0 and it is stopped, and nothing of both while ICn is set (R161, R166, R167). An admin
operation that waited for the entry ends in the event. -/
def Obligations.CompletionAcceptedCoalesces : Prop :=
  ∀ (s : State) (n : CRingId) (c : CRing), c = s.dev.cring n →
    (∀ due : Time, c.countdown = some due → timeReached s.dev.now due = true →
      Closes (.coalescingDelayExpiry n) s (s.dev.setCRing n { c with ic := true, countdown := none })) ∧
    (∀ (a : Slot) (q : List Slot) (next count : Nat), c.inflight ≠ none → c.queue = a :: q →
      next = (c.producer + 1) % c.size → count = indexSub next c.consumer c.size →
      Closes (.completionWriteAccepted n) s
        (({ s.dev with slots := s.dev.slots.set a none } : Device).setCRing n
          { c with
            producer := next
            phase := if next = 0 then !c.phase else c.phase
            queue := q
            inflight := none
            ic := c.ic || decide (c.thresh ≤ count)
            countdown :=
              if c.ic = true then c.countdown
              else if c.thresh ≤ count then none
              else if c.delay = 0 then c.countdown
              else some (c.countdown.getD (s.dev.now + BitVec.ofNat 32 (c.delay * 10))) }).endOps)

/-- A failed write of C0 in CONFIGURE, RUN or DRAINING halts with C0FLT. A failed write of C1 faults C1: its queue is
freed, IC1 and the countdown are cleared, ALERT.C1FLT is set, every ACTIVE action ring bound to it faults CQFLT in
ascending number, and an admin operation that waited ends; while the bus is not ready and a write to C0 is then due,
the event ends in the halt (R162, R183), before a read that is due too by the model's order C1, C0, read (its choice,
log 7). That a write may also fail while the bus is ready is the model's choice (log 8). -/
def Obligations.CompletionWriteFails : Prop :=
  (∀ s : State, s.dev.c0.inflight ≠ none → s.dev.operational = true →
    Closes (.completionWriteFailed .c0) s (s.dev.halt .c0flt)) ∧
  (∀ (d x : Device) (f : Device → RingId → Device),
    x = { d with
          c1 := { d.c1 with state := .faulted, inflight := none, queue := [], ic := false, countdown := none }
          slots := d.c1.queue.foldl (fun (v : Vector (Option Entry) 64) (a : Slot) => v.set a none) d.slots
          alert := d.alert ||| 0x20 } →
    (∀ y r, f y r = if y.rings[r].bound = .c1 then y.ringFault r .cqflt else y) →
    d.faultC1 = (f (f (f (f x 1) 2) 3) 4).endOps) ∧
  (∀ s : State, s.dev.c1.inflight ≠ none →
    Closes (.completionWriteFailed .c1) s s.dev.faultC1 ∧
    (s.dev.busReady = false → s.dev.faultC1.mayIssue .c0 = true → s.dev.faultC1.queueHead .c0 ≠ none →
      Closes (.completionWriteFailed .c1) s (s.dev.faultC1.halt .c0flt)))

/-- The end of the read in flight frees the channel. An arrival is dropped when marked discard, faults its action ring
REGRESS when it reaches past the producer, and otherwise joins the end of the buffer. A failure is nothing more when
marked discard, halts with ARINGFLT for ring 0 in CONFIGURE, RUN or DRAINING, and faults an action ring FETCHFLT
(R144, R145). The limit of a timeout is 400 ticks after the issue (DEDUCED, log 14), and a timeout is no event before
it (log 4). -/
def Obligations.ReadEnds : Prop :=
  ∀ (s : State) (op : ReadOp) (x : Device),
    s.dev.channel = some op → x = { s.dev with channel := none } →
    (∀ records : List RawRecord, records.length = op.count →
      (op.discard = true → Closes (.readArrival records) s x) ∧
      (op.discard = false → s.dev.rings[op.ring].available < s.dev.rings[op.ring].buf.length + op.count →
        Closes (.readArrival records) s (x.ringFault op.ring .regress)) ∧
      (op.discard = false → s.dev.rings[op.ring].buf.length + op.count ≤ s.dev.rings[op.ring].available →
        Closes (.readArrival records) s
          (x.setRing op.ring { s.dev.rings[op.ring] with buf := s.dev.rings[op.ring].buf ++ records }))) ∧
    (∀ how : ReadFault, how = .error ∨ timeReached s.dev.now (op.issued + 400) = true →
      (op.discard = true → Closes (.readFailure how) s x) ∧
      (op.discard = false → op.ring = 0 → s.dev.operational = true →
        Closes (.readFailure how) s (x.halt .aringflt)) ∧
      (op.discard = false → op.ring ≠ 0 → Closes (.readFailure how) s (x.ringFault op.ring .fetchflt))) ∧
    (timeReached s.dev.now (op.issued + 400) = false → exec (.readFailure .timeout) s = .next s)

/-- The entry into HALTED: every point OFF, unclaimed and without a window, every entry, timer, wait and buffer gone,
gates CLOSED, supervision OFF, both queues, causes and countdowns cleared, HREASON and ALERT.HALT set; the
definitions, FORCE, PSTATE, inputs, ring states and indices, and device time stay (R20, R59, R77, R97, R146, R170,
R183, R184). -/
def Obligations.HaltDiscardsWork : Prop :=
  ∀ (d t : Device) (reason : HReason), t = d.halt reason →
    (t.dstate = .halted ∧ t.hreason = reason ∧ t.alert = d.alert ||| 0x100 ∧ t.timing = [] ∧ t.bootRead = none ∧
      t.snapWrite = none ∧ t.now = d.now ∧ t.control = d.control ∧ t.zones = d.zones ∧
      t.sup = { d.sup with supv := .off, countdown := none }) ∧
    (∀ a : Slot, t.slots[a] = none) ∧
    (∀ p : PointId, t.points[p] = { d.points[p] with level := false, claim := none, window := none }) ∧
    (∀ k : Fin 7, t.groups[k] = { d.groups[k] with gate := false, waits := [] }) ∧
    (∀ i : InputId, t.inputs[i] = { d.inputs[i] with waits := [] }) ∧
    (∀ r : RingId, t.rings[r] = { d.rings[r] with buf := [] }) ∧
    t.c1 = { d.c1 with queue := [], inflight := none, ic := false, countdown := none } ∧
    (t.c0.queue = [] ∧ t.c0.inflight = none ∧ t.c0.ic = false ∧ t.c0.countdown = none ∧
      t.c0.producer = d.c0.producer ∧ t.c0.consumer = d.c0.consumer ∧ t.c0.phase = d.c0.phase) ∧
    t.setup = d.setup

/-- A fault of an ACTIVE action ring makes it FAULTED with its cause, drops its buffer, marks its read discard,
answers its live entries CXRFLT in ascending slot order and sets its ALERT bit; a ring that is not ACTIVE is not
faulted. The cancellation answers exactly the ring's live entries, withdraws their timers, ends their claims and takes
them out of every wait, the others keeping their order; it changes no more of a point, no level above all (R8, R40,
R61, R146, R147, R148). -/
def Obligations.RingFaultCancelsEntries : Prop :=
  (∀ (d : Device) (r : RingId) (cause : FaultCause), r ≠ 0 →
    (d.rings[r].state = .active →
      d.ringFault r cause =
        { ({ d.setRing r { d.rings[r] with state := .faulted, cause := cause, buf := [] } with
              channel := d.channel.map
                (fun op => if op.ring = r then { op with discard := true } else op) } : Device).cancelRing r .cxrflt with
          alert := d.alert ||| (1 : Word) <<< r.val }) ∧
    (d.rings[r].state ≠ .active → d.ringFault r cause = d)) ∧
  (∀ (d t : Device) (r : RingId) (st : Status) (n : CRingId), t = d.cancelRing r st → n = d.binding r →
    (∀ a : Slot, t.slots[a] =
      if isLiveOf r d.slots[a] = true then
        (if (d.cring n).state = .faulted then none
         else d.slots[a].map (fun e => { e with st := .answered ⟨st, 0, d.now⟩ }))
      else d.slots[a]) ∧
    ((d.cring n).state ≠ .faulted →
      (t.cring n).queue = (d.cring n).queue ++ (List.finRange 64).filter (fun a => isLiveOf r d.slots[a])) ∧
    t.timing = d.timing.filter (fun x => !isLiveOf r d.slots[x.owner]) ∧
    (∀ (p : PointId) (c : Option Slot),
      ((∃ (a : Slot) (e : Entry), d.points[p].claim = some a ∧ d.slots[a] = some e ∧
          isLiveOf r d.slots[a] = true ∧ pointOf e.record = p) → c = none) →
      (¬(∃ (a : Slot) (e : Entry), d.points[p].claim = some a ∧ d.slots[a] = some e ∧
          isLiveOf r d.slots[a] = true ∧ pointOf e.record = p) → c = d.points[p].claim) →
      t.points[p] = { d.points[p] with claim := c }) ∧
    (∀ i : InputId, t.inputs[i] =
      { d.inputs[i] with waits := d.inputs[i].waits.filter (fun a => !isLiveOf r d.slots[a]) }) ∧
    (∀ k : Fin 7, t.groups[k] =
      { d.groups[k] with waits := d.groups[k].waits.filter (fun a => !isLiveOf r d.slots[a]) }) ∧
    t.rings = d.rings ∧ t.alert = d.alert)

/-- A pass in RUN leaves every gate at the value its expression and FORCE give, when GATE literals name lower groups
only; it changes no expression, no FORCE, no input level and no supervision. A group's value is that of R81, from
literals that read a qualified level, a gate or SUPOK, negated or not; G0's gate is OPEN in RUN alone. A pass in RUN
takes the groups in ascending number, each once, and makes the opening or the closure of a group whose value differs
from its gate in full before the next (R85 to R87, R90; ClosureAndOpening says what each does). Outside RUN there is
no pass (R80, R81, R84, R85, R86, R87, R90). -/
def Obligations.PassSettlesGates : Prop :=
  (∀ d : Device, d.dstate = .run → d.GatesOrdered →
    (∀ k : Fin 7, d.pass.groups[k].gate = d.pass.groupValue k) ∧
    (∀ k : Fin 7, d.pass.groups[k].terms = d.groups[k].terms ∧ d.pass.groups[k].lits = d.groups[k].lits ∧
      d.pass.groups[k].force = d.groups[k].force) ∧
    d.pass.inputs = d.inputs ∧ d.pass.sup = d.sup ∧ d.pass.dstate = .run) ∧
  (∀ (d : Device) (k : Fin 7), d.groupValue k = true ↔
    d.groups[k].force = false ∧
      ∃ t : Nat, t < d.groups[k].terms ∧
        ∀ i : Fin 16, i.val / 4 = t → d.literalTrue d.groups[k].lits[i] = true) ∧
  (∀ d : Device, d.literalTrue .unused = true ∧
    (∀ (i : InputId) (neg : Bool), d.literalTrue (.input i neg) = true ↔ d.inputs[i].qualified = !neg) ∧
    (∀ (g : Fin 8) (neg : Bool), d.literalTrue (.gate g neg) = true ↔ d.gateOpen g = !neg) ∧
    (∀ neg : Bool, d.literalTrue (.supok neg) = true ↔ (if d.sup.supv = .lapsed then neg = true else neg = false))) ∧
  (∀ d : Device, (d.gateOpen 0 = true ↔ d.dstate = .run) ∧ ∀ k : Fin 7, d.gateOpen k.succ = d.groups[k].gate) ∧
  (∀ d : Device, d.dstate = .run →
    d.pass = (List.finRange 7).foldl
      (fun x k =>
        if x.groupValue k = x.groups[k].gate then x
        else if x.groupValue k = true then x.openGroup k
        else x.closeGroup k) d) ∧
  (∀ d : Device, d.dstate ≠ .run → d.pass = d)

/-- A closure sets the gate CLOSED, ends every claim on the group's points, answers their entries CXLOCK with DETAIL 0
in ascending point order, each at the end of its completion ring's queue or freed when that ring is FAULTED, their
timers withdrawn, and drives its PLAIN points OFF, each with a settle window when it was ON, NORMAL and READBACK is
on; it leaves its HELD points' level and every other point as they are; the wait list stays. Its claims name different
entries, as R7 gives (TableKept). An opening sets the gate OPEN, empties the wait list and runs the action stage for
its entries in order, each without its deadline (R8, R15, R86, R87, R89, R90). The action stage of any entry, taken or
released (R4): PTFLT on a FAULTED point (R5); for an on-effect at a CLOSED gate, GATE_WAIT at the end of the
group's wait list with its deadline kept, or GATED with the group's number (R6); at a claim BUSY, or with SUPERSEDE
the claim ended CXSUPER and then the effect; else the effect (R7; SupersedeCancelsClaim says what an effect is). A
fault and a closure taken in either order leave the point FAULTED, OFF and unclaimed: the closure after the fault does
nothing to it, and the fault after the closure cancels nothing (R96; when a fault is found is R16's, log 17). -/
def Obligations.ClosureAndOpening : Prop :=
  (∀ (d t : Device) (k : Fin 7) (ended : List Slot), t = d.closeGroup k →
    ended = (List.finRange 64).filterMap (fun p => if d.points[p].group = k.succ then d.points[p].claim else none) →
    (∀ j : Fin 7, t.groups[j] = if j = k then { d.groups[j] with gate := false } else d.groups[j]) ∧
    (∀ p : PointId, t.points[p] =
      if d.points[p].group = k.succ then
        { d.points[p] with
          claim := none
          level := if d.points[p].mode = .plain then false else d.points[p].level
          window :=
            if d.points[p].mode = .plain ∧ d.points[p].level = true ∧ d.points[p].readback = true ∧
                d.points[p].pstate = .normal then some (d.now + 200)
            else d.points[p].window }
      else d.points[p]) ∧
    (∀ a : Slot, a ∉ ended → t.slots[a] = d.slots[a]) ∧
    (ended.Nodup → (∀ a : Slot, a ∈ ended → d.slots[a] ≠ none) →
      (∀ (a : Slot) (e : Entry), a ∈ ended → d.slots[a] = some e →
        t.slots[a] =
          if (d.cring (d.binding e.ring)).state = .faulted then none
          else some { e with st := .answered ⟨.cxlock, 0, d.now⟩ }) ∧
      t.timing = d.timing.filter (fun x => !ended.contains x.owner) ∧
      (∀ n : CRingId, t.cring n =
        { d.cring n with
          queue := (d.cring n).queue ++
            (if (d.cring n).state = .faulted then []
             else ended.filter (fun a => d.slots[a].any (fun e => decide (d.binding e.ring = n)))) })) ∧
    t.inputs = d.inputs ∧ t.rings = d.rings ∧ t.sup = d.sup ∧ t.alert = d.alert ∧ t.dstate = d.dstate) ∧
  (∀ (d : Device) (k : Fin 7), d.openGroup k =
    d.groups[k].waits.foldl (fun x a => (x.withdraw a).actionStage a)
      (d.setGroup k { d.groups[k] with gate := true, waits := [] })) ∧
  (∀ (d : Device) (a : Slot) (e : Entry) (p : PointId), d.slots[a] = some e → p = pointOf e.record →
    (d.points[p].pstate = .faulted → d.actionStage a = d.answer a .ptflt 0) ∧
    (∀ k : ActionKind, actionKindOf e.record = some k → d.points[p].pstate = .normal →
      (isOnEffect k = true → d.gateOpen d.points[p].group = false →
        (waitGateOf e.record = false →
          d.actionStage a = d.answer a .gated (BitVec.ofNat 32 d.points[p].group.val)) ∧
        (∀ g : Fin 7, waitGateOf e.record = true → d.points[p].group = g.succ →
          d.actionStage a =
            { d with
              slots := d.slots.set a (some { e with st := .gateWait })
              groups := d.groups.set g { d.groups[g] with waits := d.groups[g].waits ++ [a] } })) ∧
      ((isOnEffect k = true → d.gateOpen d.points[p].group = true) →
        (d.points[p].claim = none → d.actionStage a = d.effect a e) ∧
        (∀ b : Slot, d.points[p].claim = some b →
          d.actionStage a =
            if supersedeOf e.record = true then
              ((d.setPoint p { d.points[p] with claim := none }).answer b .cxsuper 0).effect a e
            else d.answer a .busy 0)))) ∧
  (∀ (d first second : Device) (k : Fin 7) (p : PointId), d.points[p].group = k.succ →
    first = (d.pointFault p).closeGroup k → second = (d.closeGroup k).pointFault p →
    (first.points[p].pstate = .faulted ∧ first.points[p].level = false ∧ first.points[p].claim = none ∧
      first.points[p] = (d.pointFault p).points[p]) ∧
    (second.points[p].pstate = .faulted ∧ second.points[p].level = false ∧ second.points[p].claim = none ∧
      second.slots = (d.closeGroup k).slots ∧ second.c0 = (d.closeGroup k).c0 ∧ second.c1 = (d.closeGroup k).c1))

/-- The read channel: a ring requests it by R141's conditions; an idle channel is granted to ring 0 when it requests,
else to the first requesting ring in turn after the last granted. The read it issues has the smallest of R143's three
numbers of records, from the address base + 32 x first position, 32 bytes for each. While the bus is not ready the
read fails in the granting event: ring 0's halts with ARINGFLT and an action ring faults FETCHFLT (R134, R141, R142,
R143, R145). -/
def Obligations.ReadGrants : Prop :=
  (∀ (d : Device) (r : RingId), d.requests r = true ↔
    (if r = 0 then d.dstate = .configure ∨ d.dstate = .run ∨ d.dstate = .draining else d.dstate = .run) ∧
      d.rings[r].state = .active ∧ d.rings[r].buf.length < 8 ∧
      d.rings[r].buf.length < indexSub d.rings[r].producer d.rings[r].tail d.rings[r].size) ∧
  (∀ d : Device, d.requests 0 = true → d.arbiter = some 0) ∧
  (∀ (d : Device) (r : RingId), d.requests 0 = false → 1 ≤ d.lastGrant.val → r ≠ 0 → d.requests r = true →
    (∀ q : RingId, q ≠ 0 → d.requests q = true →
      (r.val + 7 - d.lastGrant.val) % 4 ≤ (q.val + 7 - d.lastGrant.val) % 4) →
    d.arbiter = some r) ∧
  (∀ (d : Device) (r : RingId) (first n : Nat),
    first = (d.rings[r].tail + d.rings[r].buf.length) % d.rings[r].size →
    n = min (min (8 - d.rings[r].buf.length)
      (indexSub d.rings[r].producer d.rings[r].tail d.rings[r].size - d.rings[r].buf.length))
      (d.rings[r].size - first) →
    d.readFor r =
      { ring := r, first := first, count := n, addr := d.rings[r].base + BitVec.ofNat 64 (32 * first)
        length := 32 * n, discard := false, issued := d.now }) ∧
  (∀ (d : Device) (r : RingId), d.channel = none → d.arbiter = some r →
    (d.busReady = true →
      d.grant = { d with channel := some (d.readFor r), lastGrant := if r = 0 then d.lastGrant else r }) ∧
    (d.busReady = false → r = 0 → d.grant = d.halt .aringflt) ∧
    (d.busReady = false → r ≠ 0 → d.grant = ({ d with lastGrant := r } : Device).ringFault r .fetchflt)) ∧
  (∀ d : Device, (d.channel ≠ none ∨ d.arbiter = none → d.grant = d) ∧
    (d.nextRead = match d.channel with
      | some op => some op
      | none => d.arbiter.map d.readFor))

/-- The 16 bytes of a completion record: TAG, RING with the phase in bit 7, STATUS, POS, TAIL, TIME and DETAIL, each
in its place, the reserved bits 0, the STATUS codes those of 12.2; its address is base + 16 x producer (R160). A
ring's write is due when the ring is ACTIVE, the block is CONFIGURE, RUN or DRAINING, no write is in flight, fewer
than size - 1 records are unconsumed, and an answered entry heads its queue; it is issued then (R159). While the bus
is not ready it fails in its event, C0's as a halt with C0FLT and C1's as C1's fault (R162); the attempts to issue are
repeated until nothing is due. With C0 due for a write and C1 not, the event so ends in the halt: that holds even when
a read is due too by the model's order C1, C0, read (log 7; R185 leaves the order of two halts open). -/
def Obligations.CompletionWritesFormed : Prop :=
  (∀ (d : Device) (n : CRingId) (e : Entry) (x : Answer) (w : CWrite),
    w = d.formWrite n e x →
    halfAt w.record 0 = halfAt e.record 2 ∧ (w.record.extractLsb' 16 3).toNat = e.ring.val ∧
    w.record.extractLsb' 19 4 = 0 ∧ w.record.getLsbD 23 = (d.cring n).phase ∧
    byteAt w.record 3 = statusCode x.status ∧ halfAt w.record 4 = BitVec.ofNat 16 e.pos ∧
    halfAt w.record 6 = BitVec.ofNat 16 d.rings[e.ring].tail ∧ wordAt w.record 8 = x.time ∧
    wordAt w.record 12 = x.detail ∧
    w.addr = (d.cring n).base + BitVec.ofNat 64 (16 * (d.cring n).producer)) ∧
  ([.done, .badrec, .nozone, .denied, .ptflt, .gated, .busy, .trgtmo, .gatetmo, .cxsuper, .cxlock, .cxptflt, .cxmode,
      .cxreset, .cxrflt, .lapsed].map statusCode = (List.range 16).map (BitVec.ofNat 8) ∧
    [.astate, .acqnr, .aovlp, .adigest, .aorder, .abuf].map statusCode = [0x20, 0x21, 0x22, 0x23, 0x24, 0x25]) ∧
  (∀ (d : Device) (n : CRingId), d.mayIssue n = true ↔
    (d.cring n).state = .active ∧ (d.dstate = .configure ∨ d.dstate = .run ∨ d.dstate = .draining) ∧
      (d.cring n).inflight = none ∧
      indexSub (d.cring n).producer (d.cring n).consumer (d.cring n).size < (d.cring n).size - 1) ∧
  (∀ (d : Device) (n : CRingId) (e : Entry) (x : Answer), d.queueHead n = some (e, x) ↔
    ∃ (a : Slot) (q : List Slot), (d.cring n).queue = a :: q ∧ d.slots[a] = some e ∧ e.st = .answered x) ∧
  (∀ (d : Device) (n : CRingId),
    ((d.cring n).inflight ≠ none → d.nextWrite n = (d.cring n).inflight) ∧
    ((d.cring n).inflight = none → d.mayIssue n = false ∨ d.queueHead n = none → d.nextWrite n = none) ∧
    (d.mayIssue n = false ∨ d.queueHead n = none → d.issue n = d) ∧
    (∀ (e : Entry) (x : Answer), d.mayIssue n = true → d.queueHead n = some (e, x) →
      d.nextWrite n = some (d.formWrite n e x) ∧
      (d.busReady = true → d.issue n = d.setCRing n { d.cring n with inflight := some (d.formWrite n e x) }) ∧
      (d.busReady = false → d.issue n = if n = .c0 then d.halt .c0flt else d.faultC1))) ∧
  (∀ d : Device, d.busReady = false →
    d.served = (fun x => ((x.issue .c1).issue .c0).grant)^[6] d ∧ d.served.NothingDue ∧
      (d.NothingDue → d.served = d)) ∧
  (∀ (d : Device) (f : Device → Device), (f d).busReady = false → (f d).mayIssue .c1 = false →
    (f d).mayIssue .c0 = true → (f d).queueHead .c0 ≠ none →
    d.event f = d.closedFrom ((f d).halt .c0flt))

/-! ## The whole block -/

/-- The device state changes only as R173's table gives, each change in its own event: HALTED is entered with the
HREASON of the failure that was found, and CONFIGURE from the drain with no action entry left. HALTED is left by a
reset alone and keeps its HREASON, and no command but a reset changes the device time (R62, R173, R182, R183,
R184). -/
def Obligations.DeviceStateTransitions : Prop :=
  ∀ (c : Instr) (s t : State), exec c s = .next t →
    Transition c s.dev t.dev ∧
    (s.dev.dstate = .halted → resets c = false → t.dev.dstate = .halted ∧ t.dev.hreason = s.dev.hreason) ∧
    (resets c = false → t.dev.now = s.dev.now ∧ t.dev.rcause = s.dev.rcause)

/-- The configuration that the digest covers, and with it the digest, changes only by a reset or by one of the five
defining records taken in CONFIGURE; FORCE only by a reset or a FORCE_GROUP; PSTATE only by a reset, a settle window's
end or a sense change of the point, or a CLEAR_POINT_FAULT (R1, R79, R99, R116, R124, R188). -/
def Obligations.ConfigurationKept : Prop :=
  ∀ (c : Instr) (s t : State), exec c s = .next t → resets c = false →
    ((s.dev.dstate ≠ .configure ∨
        (c ≠ .definePoint ∧ c ≠ .defineInput ∧ c ≠ .defineZone ∧ c ≠ .defineGroup ∧ c ≠ .setSupervision)) →
      t.dev.setup = s.dev.setup ∧ t.dev.digestValue = s.dev.digestValue) ∧
    (c ≠ .forceGroup → ∀ k : Fin 7, t.dev.groups[k].force = s.dev.groups[k].force) ∧
    (∀ p : PointId, c ≠ .settleWindowEnd p → (∀ l, c ≠ .senseChange p l) → c ≠ .clearPointFault →
      t.dev.points[p].pstate = s.dev.points[p].pstate)

/-- Outside RUN no point is ON, and no timer, wait, OPEN gate or running countdown exists: every step keeps this
(R20, R77, R84, R93, R114, R124, R172). -/
def Obligations.QuietOutsideRunKept : Prop :=
  ∀ s t : State, s.dev.QuietOutsideRun → step s = .next t → t.dev.QuietOutsideRun

/-- In RUN the gate of every group equals the value R81 gives from its expression and its FORCE flag, with every GATE
literal naming a lower group: every step keeps this (R80, R82, R85). -/
def Obligations.GatesSettledKept : Prop :=
  ∀ s t : State, s.dev.GatesOrdered → s.dev.GatesSettled → step s = .next t →
    t.dev.GatesOrdered ∧ t.dev.GatesSettled

/-- The Outstanding Table keeps its pools and quotas, and no event leaves an entry between two states (R44, R46, R52,
R57). A point is claimed exactly by the TIMED entry whose record names it; every TIMED entry owns exactly one Timing
List entry, an OUTPUT_TIMER, and every other Timing List entry is the DEADLINE of a waiting entry; a FAULTED point is
OFF and unclaimed; wait lists name waiting entries and answer queues answered ones, each once: every step keeps these
together, with what holds outside RUN (R7, R18, R66, R93, R107, R158). -/
def Obligations.TableKept : Prop :=
  (∀ s t : State, s.dev.PoolsKept → s.dev.QuotasKept → s.dev.NoIntake → step s = .next t →
    t.dev.PoolsKept ∧ t.dev.QuotasKept ∧ t.dev.NoIntake) ∧
  (∀ s t : State, s.dev.ClaimsTied → s.dev.FaultedOff → s.dev.TimersTied → s.dev.WaitsTied → s.dev.QueuesTied →
    s.dev.QuietOutsideRun → step s = .next t →
    t.dev.ClaimsTied ∧ t.dev.FaultedOff ∧ t.dev.TimersTied ∧ t.dev.WaitsTied ∧ t.dev.QueuesTied)

/-- Ring indices stay inside their rings, what is fetched never passes the producer the host wrote or the buffer's
eight places, and a completion ring never holds more than size - 1 unconsumed records: every step keeps this (R134,
R139, R140, R143, R144, R159). For ring 0 and C0 before a boot it rests on the size 16 that the model gives an unset
ring (the model's choice, log 2; R135 and R155 leave it unset). -/
def Obligations.IndicesBoundedKept : Prop :=
  ∀ s t : State, s.dev.RingsBounded → s.dev.CompletionsBounded → step s = .next t →
    t.dev.RingsBounded ∧ t.dev.CompletionsBounded

/-- The kept conditions hold after reset (R1, R79, R99, R135, R155), so they hold in every state a run reaches. For
ring 0 and C0 the bounds rest on the size the model gives an unset ring (the model's choice, log 2). -/
def Obligations.InvariantsHoldAtReset : Prop :=
  State.reset.dev.QuietOutsideRun ∧ State.reset.dev.GatesOrdered ∧ State.reset.dev.GatesSettled ∧
    State.reset.dev.PoolsKept ∧ State.reset.dev.QuotasKept ∧ State.reset.dev.NoIntake ∧
    State.reset.dev.RingsBounded ∧ State.reset.dev.CompletionsBounded ∧ State.reset.dev.ClaimsTied ∧
    State.reset.dev.FaultedOff ∧ State.reset.dev.TimersTied ∧ State.reset.dev.WaitsTied ∧ State.reset.dev.QueuesTied
end

