-- ==== Sys2Proof/Laws/State.lean ====
section
/-! SUPPORT. One lemma for each field after each update of the device: the field as written, or as it was. -/

namespace Sys2Proof.Machine

variable (d : Device)

/-! ### setSlot -/

@[simp] theorem Device.setSlot_dstate (a : Slot) (e : Option Entry) : (d.setSlot a e).dstate = d.dstate := rfl
@[simp] theorem Device.setSlot_hreason (a : Slot) (e : Option Entry) : (d.setSlot a e).hreason = d.hreason := rfl
@[simp] theorem Device.setSlot_rcause (a : Slot) (e : Option Entry) : (d.setSlot a e).rcause = d.rcause := rfl
@[simp] theorem Device.setSlot_alert (a : Slot) (e : Option Entry) : (d.setSlot a e).alert = d.alert := rfl
@[simp] theorem Device.setSlot_control (a : Slot) (e : Option Entry) : (d.setSlot a e).control = d.control := rfl
@[simp] theorem Device.setSlot_bootLo (a : Slot) (e : Option Entry) : (d.setSlot a e).bootLo = d.bootLo := rfl
@[simp] theorem Device.setSlot_bootHi (a : Slot) (e : Option Entry) : (d.setSlot a e).bootHi = d.bootHi := rfl
@[simp] theorem Device.setSlot_bootCopy (a : Slot) (e : Option Entry) : (d.setSlot a e).bootCopy = d.bootCopy := rfl
@[simp] theorem Device.setSlot_bootRead (a : Slot) (e : Option Entry) : (d.setSlot a e).bootRead = d.bootRead := rfl
@[simp] theorem Device.setSlot_snapWrite (a : Slot) (e : Option Entry) :
    (d.setSlot a e).snapWrite = d.snapWrite := rfl
@[simp] theorem Device.setSlot_now (a : Slot) (e : Option Entry) : (d.setSlot a e).now = d.now := rfl
@[simp] theorem Device.setSlot_timing (a : Slot) (e : Option Entry) : (d.setSlot a e).timing = d.timing := rfl
@[simp] theorem Device.setSlot_slots (a : Slot) (e : Option Entry) : (d.setSlot a e).slots = d.slots.set a e := rfl
@[simp] theorem Device.setSlot_points (a : Slot) (e : Option Entry) : (d.setSlot a e).points = d.points := rfl
@[simp] theorem Device.setSlot_groups (a : Slot) (e : Option Entry) : (d.setSlot a e).groups = d.groups := rfl
@[simp] theorem Device.setSlot_inputs (a : Slot) (e : Option Entry) : (d.setSlot a e).inputs = d.inputs := rfl
@[simp] theorem Device.setSlot_zones (a : Slot) (e : Option Entry) : (d.setSlot a e).zones = d.zones := rfl
@[simp] theorem Device.setSlot_sup (a : Slot) (e : Option Entry) : (d.setSlot a e).sup = d.sup := rfl
@[simp] theorem Device.setSlot_rings (a : Slot) (e : Option Entry) : (d.setSlot a e).rings = d.rings := rfl
@[simp] theorem Device.setSlot_channel (a : Slot) (e : Option Entry) : (d.setSlot a e).channel = d.channel := rfl
@[simp] theorem Device.setSlot_lastGrant (a : Slot) (e : Option Entry) :
    (d.setSlot a e).lastGrant = d.lastGrant := rfl
@[simp] theorem Device.setSlot_producerReg (a : Slot) (e : Option Entry) :
    (d.setSlot a e).producerReg = d.producerReg := rfl
@[simp] theorem Device.setSlot_c0 (a : Slot) (e : Option Entry) : (d.setSlot a e).c0 = d.c0 := rfl
@[simp] theorem Device.setSlot_c1 (a : Slot) (e : Option Entry) : (d.setSlot a e).c1 = d.c1 := rfl
@[simp] theorem Device.setSlot_consumerReg (a : Slot) (e : Option Entry) :
    (d.setSlot a e).consumerReg = d.consumerReg := rfl
@[simp] theorem Device.setSlot_link (a : Slot) (e : Option Entry) : (d.setSlot a e).link = d.link := rfl

/-! ### setPoint -/

@[simp] theorem Device.setPoint_dstate (p : PointId) (v : Point) : (d.setPoint p v).dstate = d.dstate := rfl
@[simp] theorem Device.setPoint_hreason (p : PointId) (v : Point) : (d.setPoint p v).hreason = d.hreason := rfl
@[simp] theorem Device.setPoint_rcause (p : PointId) (v : Point) : (d.setPoint p v).rcause = d.rcause := rfl
@[simp] theorem Device.setPoint_alert (p : PointId) (v : Point) : (d.setPoint p v).alert = d.alert := rfl
@[simp] theorem Device.setPoint_control (p : PointId) (v : Point) : (d.setPoint p v).control = d.control := rfl
@[simp] theorem Device.setPoint_bootLo (p : PointId) (v : Point) : (d.setPoint p v).bootLo = d.bootLo := rfl
@[simp] theorem Device.setPoint_bootHi (p : PointId) (v : Point) : (d.setPoint p v).bootHi = d.bootHi := rfl
@[simp] theorem Device.setPoint_bootCopy (p : PointId) (v : Point) : (d.setPoint p v).bootCopy = d.bootCopy := rfl
@[simp] theorem Device.setPoint_bootRead (p : PointId) (v : Point) : (d.setPoint p v).bootRead = d.bootRead := rfl
@[simp] theorem Device.setPoint_snapWrite (p : PointId) (v : Point) : (d.setPoint p v).snapWrite = d.snapWrite := rfl
@[simp] theorem Device.setPoint_now (p : PointId) (v : Point) : (d.setPoint p v).now = d.now := rfl
@[simp] theorem Device.setPoint_timing (p : PointId) (v : Point) : (d.setPoint p v).timing = d.timing := rfl
@[simp] theorem Device.setPoint_slots (p : PointId) (v : Point) : (d.setPoint p v).slots = d.slots := rfl
@[simp] theorem Device.setPoint_points (p : PointId) (v : Point) : (d.setPoint p v).points = d.points.set p v := rfl
@[simp] theorem Device.setPoint_groups (p : PointId) (v : Point) : (d.setPoint p v).groups = d.groups := rfl
@[simp] theorem Device.setPoint_inputs (p : PointId) (v : Point) : (d.setPoint p v).inputs = d.inputs := rfl
@[simp] theorem Device.setPoint_zones (p : PointId) (v : Point) : (d.setPoint p v).zones = d.zones := rfl
@[simp] theorem Device.setPoint_sup (p : PointId) (v : Point) : (d.setPoint p v).sup = d.sup := rfl
@[simp] theorem Device.setPoint_rings (p : PointId) (v : Point) : (d.setPoint p v).rings = d.rings := rfl
@[simp] theorem Device.setPoint_channel (p : PointId) (v : Point) : (d.setPoint p v).channel = d.channel := rfl
@[simp] theorem Device.setPoint_lastGrant (p : PointId) (v : Point) : (d.setPoint p v).lastGrant = d.lastGrant := rfl
@[simp] theorem Device.setPoint_producerReg (p : PointId) (v : Point) :
    (d.setPoint p v).producerReg = d.producerReg := rfl
@[simp] theorem Device.setPoint_c0 (p : PointId) (v : Point) : (d.setPoint p v).c0 = d.c0 := rfl
@[simp] theorem Device.setPoint_c1 (p : PointId) (v : Point) : (d.setPoint p v).c1 = d.c1 := rfl
@[simp] theorem Device.setPoint_consumerReg (p : PointId) (v : Point) :
    (d.setPoint p v).consumerReg = d.consumerReg := rfl
@[simp] theorem Device.setPoint_link (p : PointId) (v : Point) : (d.setPoint p v).link = d.link := rfl

/-! ### setGroup -/

@[simp] theorem Device.setGroup_dstate (k : Fin 7) (v : Group) : (d.setGroup k v).dstate = d.dstate := rfl
@[simp] theorem Device.setGroup_hreason (k : Fin 7) (v : Group) : (d.setGroup k v).hreason = d.hreason := rfl
@[simp] theorem Device.setGroup_rcause (k : Fin 7) (v : Group) : (d.setGroup k v).rcause = d.rcause := rfl
@[simp] theorem Device.setGroup_alert (k : Fin 7) (v : Group) : (d.setGroup k v).alert = d.alert := rfl
@[simp] theorem Device.setGroup_control (k : Fin 7) (v : Group) : (d.setGroup k v).control = d.control := rfl
@[simp] theorem Device.setGroup_bootLo (k : Fin 7) (v : Group) : (d.setGroup k v).bootLo = d.bootLo := rfl
@[simp] theorem Device.setGroup_bootHi (k : Fin 7) (v : Group) : (d.setGroup k v).bootHi = d.bootHi := rfl
@[simp] theorem Device.setGroup_bootCopy (k : Fin 7) (v : Group) : (d.setGroup k v).bootCopy = d.bootCopy := rfl
@[simp] theorem Device.setGroup_bootRead (k : Fin 7) (v : Group) : (d.setGroup k v).bootRead = d.bootRead := rfl
@[simp] theorem Device.setGroup_snapWrite (k : Fin 7) (v : Group) : (d.setGroup k v).snapWrite = d.snapWrite := rfl
@[simp] theorem Device.setGroup_now (k : Fin 7) (v : Group) : (d.setGroup k v).now = d.now := rfl
@[simp] theorem Device.setGroup_timing (k : Fin 7) (v : Group) : (d.setGroup k v).timing = d.timing := rfl
@[simp] theorem Device.setGroup_slots (k : Fin 7) (v : Group) : (d.setGroup k v).slots = d.slots := rfl
@[simp] theorem Device.setGroup_points (k : Fin 7) (v : Group) : (d.setGroup k v).points = d.points := rfl
@[simp] theorem Device.setGroup_groups (k : Fin 7) (v : Group) : (d.setGroup k v).groups = d.groups.set k v := rfl
@[simp] theorem Device.setGroup_inputs (k : Fin 7) (v : Group) : (d.setGroup k v).inputs = d.inputs := rfl
@[simp] theorem Device.setGroup_zones (k : Fin 7) (v : Group) : (d.setGroup k v).zones = d.zones := rfl
@[simp] theorem Device.setGroup_sup (k : Fin 7) (v : Group) : (d.setGroup k v).sup = d.sup := rfl
@[simp] theorem Device.setGroup_rings (k : Fin 7) (v : Group) : (d.setGroup k v).rings = d.rings := rfl
@[simp] theorem Device.setGroup_channel (k : Fin 7) (v : Group) : (d.setGroup k v).channel = d.channel := rfl
@[simp] theorem Device.setGroup_lastGrant (k : Fin 7) (v : Group) : (d.setGroup k v).lastGrant = d.lastGrant := rfl
@[simp] theorem Device.setGroup_producerReg (k : Fin 7) (v : Group) :
    (d.setGroup k v).producerReg = d.producerReg := rfl
@[simp] theorem Device.setGroup_c0 (k : Fin 7) (v : Group) : (d.setGroup k v).c0 = d.c0 := rfl
@[simp] theorem Device.setGroup_c1 (k : Fin 7) (v : Group) : (d.setGroup k v).c1 = d.c1 := rfl
@[simp] theorem Device.setGroup_consumerReg (k : Fin 7) (v : Group) :
    (d.setGroup k v).consumerReg = d.consumerReg := rfl
@[simp] theorem Device.setGroup_link (k : Fin 7) (v : Group) : (d.setGroup k v).link = d.link := rfl

/-! ### setInput -/

@[simp] theorem Device.setInput_dstate (i : InputId) (v : Input) : (d.setInput i v).dstate = d.dstate := rfl
@[simp] theorem Device.setInput_hreason (i : InputId) (v : Input) : (d.setInput i v).hreason = d.hreason := rfl
@[simp] theorem Device.setInput_rcause (i : InputId) (v : Input) : (d.setInput i v).rcause = d.rcause := rfl
@[simp] theorem Device.setInput_alert (i : InputId) (v : Input) : (d.setInput i v).alert = d.alert := rfl
@[simp] theorem Device.setInput_control (i : InputId) (v : Input) : (d.setInput i v).control = d.control := rfl
@[simp] theorem Device.setInput_bootLo (i : InputId) (v : Input) : (d.setInput i v).bootLo = d.bootLo := rfl
@[simp] theorem Device.setInput_bootHi (i : InputId) (v : Input) : (d.setInput i v).bootHi = d.bootHi := rfl
@[simp] theorem Device.setInput_bootCopy (i : InputId) (v : Input) : (d.setInput i v).bootCopy = d.bootCopy := rfl
@[simp] theorem Device.setInput_bootRead (i : InputId) (v : Input) : (d.setInput i v).bootRead = d.bootRead := rfl
@[simp] theorem Device.setInput_snapWrite (i : InputId) (v : Input) : (d.setInput i v).snapWrite = d.snapWrite := rfl
@[simp] theorem Device.setInput_now (i : InputId) (v : Input) : (d.setInput i v).now = d.now := rfl
@[simp] theorem Device.setInput_timing (i : InputId) (v : Input) : (d.setInput i v).timing = d.timing := rfl
@[simp] theorem Device.setInput_slots (i : InputId) (v : Input) : (d.setInput i v).slots = d.slots := rfl
@[simp] theorem Device.setInput_points (i : InputId) (v : Input) : (d.setInput i v).points = d.points := rfl
@[simp] theorem Device.setInput_groups (i : InputId) (v : Input) : (d.setInput i v).groups = d.groups := rfl
@[simp] theorem Device.setInput_inputs (i : InputId) (v : Input) : (d.setInput i v).inputs = d.inputs.set i v := rfl
@[simp] theorem Device.setInput_zones (i : InputId) (v : Input) : (d.setInput i v).zones = d.zones := rfl
@[simp] theorem Device.setInput_sup (i : InputId) (v : Input) : (d.setInput i v).sup = d.sup := rfl
@[simp] theorem Device.setInput_rings (i : InputId) (v : Input) : (d.setInput i v).rings = d.rings := rfl
@[simp] theorem Device.setInput_channel (i : InputId) (v : Input) : (d.setInput i v).channel = d.channel := rfl
@[simp] theorem Device.setInput_lastGrant (i : InputId) (v : Input) : (d.setInput i v).lastGrant = d.lastGrant := rfl
@[simp] theorem Device.setInput_producerReg (i : InputId) (v : Input) :
    (d.setInput i v).producerReg = d.producerReg := rfl
@[simp] theorem Device.setInput_c0 (i : InputId) (v : Input) : (d.setInput i v).c0 = d.c0 := rfl
@[simp] theorem Device.setInput_c1 (i : InputId) (v : Input) : (d.setInput i v).c1 = d.c1 := rfl
@[simp] theorem Device.setInput_consumerReg (i : InputId) (v : Input) :
    (d.setInput i v).consumerReg = d.consumerReg := rfl
@[simp] theorem Device.setInput_link (i : InputId) (v : Input) : (d.setInput i v).link = d.link := rfl

/-! ### setRing -/

@[simp] theorem Device.setRing_dstate (r : RingId) (v : Ring) : (d.setRing r v).dstate = d.dstate := rfl
@[simp] theorem Device.setRing_hreason (r : RingId) (v : Ring) : (d.setRing r v).hreason = d.hreason := rfl
@[simp] theorem Device.setRing_rcause (r : RingId) (v : Ring) : (d.setRing r v).rcause = d.rcause := rfl
@[simp] theorem Device.setRing_alert (r : RingId) (v : Ring) : (d.setRing r v).alert = d.alert := rfl
@[simp] theorem Device.setRing_control (r : RingId) (v : Ring) : (d.setRing r v).control = d.control := rfl
@[simp] theorem Device.setRing_bootLo (r : RingId) (v : Ring) : (d.setRing r v).bootLo = d.bootLo := rfl
@[simp] theorem Device.setRing_bootHi (r : RingId) (v : Ring) : (d.setRing r v).bootHi = d.bootHi := rfl
@[simp] theorem Device.setRing_bootCopy (r : RingId) (v : Ring) : (d.setRing r v).bootCopy = d.bootCopy := rfl
@[simp] theorem Device.setRing_bootRead (r : RingId) (v : Ring) : (d.setRing r v).bootRead = d.bootRead := rfl
@[simp] theorem Device.setRing_snapWrite (r : RingId) (v : Ring) : (d.setRing r v).snapWrite = d.snapWrite := rfl
@[simp] theorem Device.setRing_now (r : RingId) (v : Ring) : (d.setRing r v).now = d.now := rfl
@[simp] theorem Device.setRing_timing (r : RingId) (v : Ring) : (d.setRing r v).timing = d.timing := rfl
@[simp] theorem Device.setRing_slots (r : RingId) (v : Ring) : (d.setRing r v).slots = d.slots := rfl
@[simp] theorem Device.setRing_points (r : RingId) (v : Ring) : (d.setRing r v).points = d.points := rfl
@[simp] theorem Device.setRing_groups (r : RingId) (v : Ring) : (d.setRing r v).groups = d.groups := rfl
@[simp] theorem Device.setRing_inputs (r : RingId) (v : Ring) : (d.setRing r v).inputs = d.inputs := rfl
@[simp] theorem Device.setRing_zones (r : RingId) (v : Ring) : (d.setRing r v).zones = d.zones := rfl
@[simp] theorem Device.setRing_sup (r : RingId) (v : Ring) : (d.setRing r v).sup = d.sup := rfl
@[simp] theorem Device.setRing_rings (r : RingId) (v : Ring) : (d.setRing r v).rings = d.rings.set r v := rfl
@[simp] theorem Device.setRing_channel (r : RingId) (v : Ring) : (d.setRing r v).channel = d.channel := rfl
@[simp] theorem Device.setRing_lastGrant (r : RingId) (v : Ring) : (d.setRing r v).lastGrant = d.lastGrant := rfl
@[simp] theorem Device.setRing_producerReg (r : RingId) (v : Ring) :
    (d.setRing r v).producerReg = d.producerReg := rfl
@[simp] theorem Device.setRing_c0 (r : RingId) (v : Ring) : (d.setRing r v).c0 = d.c0 := rfl
@[simp] theorem Device.setRing_c1 (r : RingId) (v : Ring) : (d.setRing r v).c1 = d.c1 := rfl
@[simp] theorem Device.setRing_consumerReg (r : RingId) (v : Ring) :
    (d.setRing r v).consumerReg = d.consumerReg := rfl
@[simp] theorem Device.setRing_link (r : RingId) (v : Ring) : (d.setRing r v).link = d.link := rfl

/-! ### setCRing -/

@[simp] theorem Device.setCRing_dstate (c : CRingId) (v : CRing) :
    (d.setCRing c v).dstate = d.dstate := by cases c <;> rfl
@[simp] theorem Device.setCRing_hreason (c : CRingId) (v : CRing) :
    (d.setCRing c v).hreason = d.hreason := by cases c <;> rfl
@[simp] theorem Device.setCRing_rcause (c : CRingId) (v : CRing) :
    (d.setCRing c v).rcause = d.rcause := by cases c <;> rfl
@[simp] theorem Device.setCRing_alert (c : CRingId) (v : CRing) :
    (d.setCRing c v).alert = d.alert := by cases c <;> rfl
@[simp] theorem Device.setCRing_control (c : CRingId) (v : CRing) :
    (d.setCRing c v).control = d.control := by cases c <;> rfl
@[simp] theorem Device.setCRing_bootLo (c : CRingId) (v : CRing) :
    (d.setCRing c v).bootLo = d.bootLo := by cases c <;> rfl
@[simp] theorem Device.setCRing_bootHi (c : CRingId) (v : CRing) :
    (d.setCRing c v).bootHi = d.bootHi := by cases c <;> rfl
@[simp] theorem Device.setCRing_bootCopy (c : CRingId) (v : CRing) :
    (d.setCRing c v).bootCopy = d.bootCopy := by cases c <;> rfl
@[simp] theorem Device.setCRing_bootRead (c : CRingId) (v : CRing) :
    (d.setCRing c v).bootRead = d.bootRead := by cases c <;> rfl
@[simp] theorem Device.setCRing_snapWrite (c : CRingId) (v : CRing) :
    (d.setCRing c v).snapWrite = d.snapWrite := by cases c <;> rfl
@[simp] theorem Device.setCRing_now (c : CRingId) (v : CRing) : (d.setCRing c v).now = d.now := by cases c <;> rfl
@[simp] theorem Device.setCRing_timing (c : CRingId) (v : CRing) :
    (d.setCRing c v).timing = d.timing := by cases c <;> rfl
@[simp] theorem Device.setCRing_slots (c : CRingId) (v : CRing) :
    (d.setCRing c v).slots = d.slots := by cases c <;> rfl
@[simp] theorem Device.setCRing_points (c : CRingId) (v : CRing) :
    (d.setCRing c v).points = d.points := by cases c <;> rfl
@[simp] theorem Device.setCRing_groups (c : CRingId) (v : CRing) :
    (d.setCRing c v).groups = d.groups := by cases c <;> rfl
@[simp] theorem Device.setCRing_inputs (c : CRingId) (v : CRing) :
    (d.setCRing c v).inputs = d.inputs := by cases c <;> rfl
@[simp] theorem Device.setCRing_zones (c : CRingId) (v : CRing) :
    (d.setCRing c v).zones = d.zones := by cases c <;> rfl
@[simp] theorem Device.setCRing_sup (c : CRingId) (v : CRing) : (d.setCRing c v).sup = d.sup := by cases c <;> rfl
@[simp] theorem Device.setCRing_rings (c : CRingId) (v : CRing) :
    (d.setCRing c v).rings = d.rings := by cases c <;> rfl
@[simp] theorem Device.setCRing_channel (c : CRingId) (v : CRing) :
    (d.setCRing c v).channel = d.channel := by cases c <;> rfl
@[simp] theorem Device.setCRing_lastGrant (c : CRingId) (v : CRing) :
    (d.setCRing c v).lastGrant = d.lastGrant := by cases c <;> rfl
@[simp] theorem Device.setCRing_producerReg (c : CRingId) (v : CRing) :
    (d.setCRing c v).producerReg = d.producerReg := by cases c <;> rfl
@[simp] theorem Device.setCRing_consumerReg (c : CRingId) (v : CRing) :
    (d.setCRing c v).consumerReg = d.consumerReg := by cases c <;> rfl
@[simp] theorem Device.setCRing_link (c : CRingId) (v : CRing) : (d.setCRing c v).link = d.link := by cases c <;> rfl

/-! ### raiseAlert -/

@[simp] theorem Device.raiseAlert_dstate (x : Word) : (d.raiseAlert x).dstate = d.dstate := rfl
@[simp] theorem Device.raiseAlert_hreason (x : Word) : (d.raiseAlert x).hreason = d.hreason := rfl
@[simp] theorem Device.raiseAlert_rcause (x : Word) : (d.raiseAlert x).rcause = d.rcause := rfl
@[simp] theorem Device.raiseAlert_alert (x : Word) : (d.raiseAlert x).alert = d.alert ||| x := rfl
@[simp] theorem Device.raiseAlert_control (x : Word) : (d.raiseAlert x).control = d.control := rfl
@[simp] theorem Device.raiseAlert_bootLo (x : Word) : (d.raiseAlert x).bootLo = d.bootLo := rfl
@[simp] theorem Device.raiseAlert_bootHi (x : Word) : (d.raiseAlert x).bootHi = d.bootHi := rfl
@[simp] theorem Device.raiseAlert_bootCopy (x : Word) : (d.raiseAlert x).bootCopy = d.bootCopy := rfl
@[simp] theorem Device.raiseAlert_bootRead (x : Word) : (d.raiseAlert x).bootRead = d.bootRead := rfl
@[simp] theorem Device.raiseAlert_snapWrite (x : Word) : (d.raiseAlert x).snapWrite = d.snapWrite := rfl
@[simp] theorem Device.raiseAlert_now (x : Word) : (d.raiseAlert x).now = d.now := rfl
@[simp] theorem Device.raiseAlert_timing (x : Word) : (d.raiseAlert x).timing = d.timing := rfl
@[simp] theorem Device.raiseAlert_slots (x : Word) : (d.raiseAlert x).slots = d.slots := rfl
@[simp] theorem Device.raiseAlert_points (x : Word) : (d.raiseAlert x).points = d.points := rfl
@[simp] theorem Device.raiseAlert_groups (x : Word) : (d.raiseAlert x).groups = d.groups := rfl
@[simp] theorem Device.raiseAlert_inputs (x : Word) : (d.raiseAlert x).inputs = d.inputs := rfl
@[simp] theorem Device.raiseAlert_zones (x : Word) : (d.raiseAlert x).zones = d.zones := rfl
@[simp] theorem Device.raiseAlert_sup (x : Word) : (d.raiseAlert x).sup = d.sup := rfl
@[simp] theorem Device.raiseAlert_rings (x : Word) : (d.raiseAlert x).rings = d.rings := rfl
@[simp] theorem Device.raiseAlert_channel (x : Word) : (d.raiseAlert x).channel = d.channel := rfl
@[simp] theorem Device.raiseAlert_lastGrant (x : Word) : (d.raiseAlert x).lastGrant = d.lastGrant := rfl
@[simp] theorem Device.raiseAlert_producerReg (x : Word) : (d.raiseAlert x).producerReg = d.producerReg := rfl
@[simp] theorem Device.raiseAlert_c0 (x : Word) : (d.raiseAlert x).c0 = d.c0 := rfl
@[simp] theorem Device.raiseAlert_c1 (x : Word) : (d.raiseAlert x).c1 = d.c1 := rfl
@[simp] theorem Device.raiseAlert_consumerReg (x : Word) : (d.raiseAlert x).consumerReg = d.consumerReg := rfl
@[simp] theorem Device.raiseAlert_link (x : Word) : (d.raiseAlert x).link = d.link := rfl

/-! ### addTimer -/

@[simp] theorem Device.addTimer_dstate (t : TimerEntry) : (d.addTimer t).dstate = d.dstate := rfl
@[simp] theorem Device.addTimer_hreason (t : TimerEntry) : (d.addTimer t).hreason = d.hreason := rfl
@[simp] theorem Device.addTimer_rcause (t : TimerEntry) : (d.addTimer t).rcause = d.rcause := rfl
@[simp] theorem Device.addTimer_alert (t : TimerEntry) : (d.addTimer t).alert = d.alert := rfl
@[simp] theorem Device.addTimer_control (t : TimerEntry) : (d.addTimer t).control = d.control := rfl
@[simp] theorem Device.addTimer_bootLo (t : TimerEntry) : (d.addTimer t).bootLo = d.bootLo := rfl
@[simp] theorem Device.addTimer_bootHi (t : TimerEntry) : (d.addTimer t).bootHi = d.bootHi := rfl
@[simp] theorem Device.addTimer_bootCopy (t : TimerEntry) : (d.addTimer t).bootCopy = d.bootCopy := rfl
@[simp] theorem Device.addTimer_bootRead (t : TimerEntry) : (d.addTimer t).bootRead = d.bootRead := rfl
@[simp] theorem Device.addTimer_snapWrite (t : TimerEntry) : (d.addTimer t).snapWrite = d.snapWrite := rfl
@[simp] theorem Device.addTimer_now (t : TimerEntry) : (d.addTimer t).now = d.now := rfl
@[simp] theorem Device.addTimer_timing (t : TimerEntry) : (d.addTimer t).timing = insertTimer t d.timing := rfl
@[simp] theorem Device.addTimer_slots (t : TimerEntry) : (d.addTimer t).slots = d.slots := rfl
@[simp] theorem Device.addTimer_points (t : TimerEntry) : (d.addTimer t).points = d.points := rfl
@[simp] theorem Device.addTimer_groups (t : TimerEntry) : (d.addTimer t).groups = d.groups := rfl
@[simp] theorem Device.addTimer_inputs (t : TimerEntry) : (d.addTimer t).inputs = d.inputs := rfl
@[simp] theorem Device.addTimer_zones (t : TimerEntry) : (d.addTimer t).zones = d.zones := rfl
@[simp] theorem Device.addTimer_sup (t : TimerEntry) : (d.addTimer t).sup = d.sup := rfl
@[simp] theorem Device.addTimer_rings (t : TimerEntry) : (d.addTimer t).rings = d.rings := rfl
@[simp] theorem Device.addTimer_channel (t : TimerEntry) : (d.addTimer t).channel = d.channel := rfl
@[simp] theorem Device.addTimer_lastGrant (t : TimerEntry) : (d.addTimer t).lastGrant = d.lastGrant := rfl
@[simp] theorem Device.addTimer_producerReg (t : TimerEntry) : (d.addTimer t).producerReg = d.producerReg := rfl
@[simp] theorem Device.addTimer_c0 (t : TimerEntry) : (d.addTimer t).c0 = d.c0 := rfl
@[simp] theorem Device.addTimer_c1 (t : TimerEntry) : (d.addTimer t).c1 = d.c1 := rfl
@[simp] theorem Device.addTimer_consumerReg (t : TimerEntry) : (d.addTimer t).consumerReg = d.consumerReg := rfl
@[simp] theorem Device.addTimer_link (t : TimerEntry) : (d.addTimer t).link = d.link := rfl

/-! ### withdraw -/

@[simp] theorem Device.withdraw_dstate (a : Slot) : (d.withdraw a).dstate = d.dstate := rfl
@[simp] theorem Device.withdraw_hreason (a : Slot) : (d.withdraw a).hreason = d.hreason := rfl
@[simp] theorem Device.withdraw_rcause (a : Slot) : (d.withdraw a).rcause = d.rcause := rfl
@[simp] theorem Device.withdraw_alert (a : Slot) : (d.withdraw a).alert = d.alert := rfl
@[simp] theorem Device.withdraw_control (a : Slot) : (d.withdraw a).control = d.control := rfl
@[simp] theorem Device.withdraw_bootLo (a : Slot) : (d.withdraw a).bootLo = d.bootLo := rfl
@[simp] theorem Device.withdraw_bootHi (a : Slot) : (d.withdraw a).bootHi = d.bootHi := rfl
@[simp] theorem Device.withdraw_bootCopy (a : Slot) : (d.withdraw a).bootCopy = d.bootCopy := rfl
@[simp] theorem Device.withdraw_bootRead (a : Slot) : (d.withdraw a).bootRead = d.bootRead := rfl
@[simp] theorem Device.withdraw_snapWrite (a : Slot) : (d.withdraw a).snapWrite = d.snapWrite := rfl
@[simp] theorem Device.withdraw_now (a : Slot) : (d.withdraw a).now = d.now := rfl
@[simp] theorem Device.withdraw_timing (a : Slot) :
    (d.withdraw a).timing = d.timing.filter (fun t => t.owner != a) := rfl
@[simp] theorem Device.withdraw_slots (a : Slot) : (d.withdraw a).slots = d.slots := rfl
@[simp] theorem Device.withdraw_points (a : Slot) : (d.withdraw a).points = d.points := rfl
@[simp] theorem Device.withdraw_groups (a : Slot) : (d.withdraw a).groups = d.groups := rfl
@[simp] theorem Device.withdraw_inputs (a : Slot) : (d.withdraw a).inputs = d.inputs := rfl
@[simp] theorem Device.withdraw_zones (a : Slot) : (d.withdraw a).zones = d.zones := rfl
@[simp] theorem Device.withdraw_sup (a : Slot) : (d.withdraw a).sup = d.sup := rfl
@[simp] theorem Device.withdraw_rings (a : Slot) : (d.withdraw a).rings = d.rings := rfl
@[simp] theorem Device.withdraw_channel (a : Slot) : (d.withdraw a).channel = d.channel := rfl
@[simp] theorem Device.withdraw_lastGrant (a : Slot) : (d.withdraw a).lastGrant = d.lastGrant := rfl
@[simp] theorem Device.withdraw_producerReg (a : Slot) : (d.withdraw a).producerReg = d.producerReg := rfl
@[simp] theorem Device.withdraw_c0 (a : Slot) : (d.withdraw a).c0 = d.c0 := rfl
@[simp] theorem Device.withdraw_c1 (a : Slot) : (d.withdraw a).c1 = d.c1 := rfl
@[simp] theorem Device.withdraw_consumerReg (a : Slot) : (d.withdraw a).consumerReg = d.consumerReg := rfl
@[simp] theorem Device.withdraw_link (a : Slot) : (d.withdraw a).link = d.link := rfl

/-! ### tick -/

@[simp] theorem Device.tick_dstate : (d.tick).dstate = d.dstate := rfl
@[simp] theorem Device.tick_hreason : (d.tick).hreason = d.hreason := rfl
@[simp] theorem Device.tick_rcause : (d.tick).rcause = d.rcause := rfl
@[simp] theorem Device.tick_alert : (d.tick).alert = d.alert := rfl
@[simp] theorem Device.tick_control : (d.tick).control = d.control := rfl
@[simp] theorem Device.tick_bootLo : (d.tick).bootLo = d.bootLo := rfl
@[simp] theorem Device.tick_bootHi : (d.tick).bootHi = d.bootHi := rfl
@[simp] theorem Device.tick_bootCopy : (d.tick).bootCopy = d.bootCopy := rfl
@[simp] theorem Device.tick_bootRead : (d.tick).bootRead = d.bootRead := rfl
@[simp] theorem Device.tick_snapWrite : (d.tick).snapWrite = d.snapWrite := rfl
@[simp] theorem Device.tick_now : (d.tick).now = d.now + 1 := rfl
@[simp] theorem Device.tick_timing : (d.tick).timing = d.timing := rfl
@[simp] theorem Device.tick_slots : (d.tick).slots = d.slots := rfl
@[simp] theorem Device.tick_points : (d.tick).points = d.points := rfl
@[simp] theorem Device.tick_groups : (d.tick).groups = d.groups := rfl
@[simp] theorem Device.tick_inputs : (d.tick).inputs = d.inputs.map (fun i => { i with moved := false }) := rfl
@[simp] theorem Device.tick_zones : (d.tick).zones = d.zones := rfl
@[simp] theorem Device.tick_sup : (d.tick).sup = d.sup := rfl
@[simp] theorem Device.tick_rings : (d.tick).rings = d.rings := rfl
@[simp] theorem Device.tick_channel : (d.tick).channel = d.channel := rfl
@[simp] theorem Device.tick_lastGrant : (d.tick).lastGrant = d.lastGrant := rfl
@[simp] theorem Device.tick_producerReg : (d.tick).producerReg = d.producerReg := rfl
@[simp] theorem Device.tick_c0 : (d.tick).c0 = d.c0 := rfl
@[simp] theorem Device.tick_c1 : (d.tick).c1 = d.c1 := rfl
@[simp] theorem Device.tick_consumerReg : (d.tick).consumerReg = d.consumerReg := rfl
@[simp] theorem Device.tick_link : (d.tick).link = d.link := rfl

/-! ### freeSlot -/

@[simp] theorem Device.freeSlot_dstate (a : Slot) : (d.freeSlot a).dstate = d.dstate := rfl
@[simp] theorem Device.freeSlot_hreason (a : Slot) : (d.freeSlot a).hreason = d.hreason := rfl
@[simp] theorem Device.freeSlot_rcause (a : Slot) : (d.freeSlot a).rcause = d.rcause := rfl
@[simp] theorem Device.freeSlot_alert (a : Slot) : (d.freeSlot a).alert = d.alert := rfl
@[simp] theorem Device.freeSlot_control (a : Slot) : (d.freeSlot a).control = d.control := rfl
@[simp] theorem Device.freeSlot_bootLo (a : Slot) : (d.freeSlot a).bootLo = d.bootLo := rfl
@[simp] theorem Device.freeSlot_bootHi (a : Slot) : (d.freeSlot a).bootHi = d.bootHi := rfl
@[simp] theorem Device.freeSlot_bootCopy (a : Slot) : (d.freeSlot a).bootCopy = d.bootCopy := rfl
@[simp] theorem Device.freeSlot_bootRead (a : Slot) : (d.freeSlot a).bootRead = d.bootRead := rfl
@[simp] theorem Device.freeSlot_snapWrite (a : Slot) : (d.freeSlot a).snapWrite = d.snapWrite := rfl
@[simp] theorem Device.freeSlot_now (a : Slot) : (d.freeSlot a).now = d.now := rfl
@[simp] theorem Device.freeSlot_timing (a : Slot) : (d.freeSlot a).timing = d.timing := rfl
@[simp] theorem Device.freeSlot_slots (a : Slot) : (d.freeSlot a).slots = d.slots.set a none := rfl
@[simp] theorem Device.freeSlot_points (a : Slot) : (d.freeSlot a).points = d.points := rfl
@[simp] theorem Device.freeSlot_groups (a : Slot) : (d.freeSlot a).groups = d.groups := rfl
@[simp] theorem Device.freeSlot_inputs (a : Slot) : (d.freeSlot a).inputs = d.inputs := rfl
@[simp] theorem Device.freeSlot_zones (a : Slot) : (d.freeSlot a).zones = d.zones := rfl
@[simp] theorem Device.freeSlot_sup (a : Slot) : (d.freeSlot a).sup = d.sup := rfl
@[simp] theorem Device.freeSlot_rings (a : Slot) : (d.freeSlot a).rings = d.rings := rfl
@[simp] theorem Device.freeSlot_channel (a : Slot) : (d.freeSlot a).channel = d.channel := rfl
@[simp] theorem Device.freeSlot_lastGrant (a : Slot) : (d.freeSlot a).lastGrant = d.lastGrant := rfl
@[simp] theorem Device.freeSlot_producerReg (a : Slot) : (d.freeSlot a).producerReg = d.producerReg := rfl
@[simp] theorem Device.freeSlot_c0 (a : Slot) : (d.freeSlot a).c0 = d.c0 := rfl
@[simp] theorem Device.freeSlot_c1 (a : Slot) : (d.freeSlot a).c1 = d.c1 := rfl
@[simp] theorem Device.freeSlot_consumerReg (a : Slot) : (d.freeSlot a).consumerReg = d.consumerReg := rfl
@[simp] theorem Device.freeSlot_link (a : Slot) : (d.freeSlot a).link = d.link := rfl

/-! ### pushAnswer -/

@[simp] theorem Device.pushAnswer_dstate (c : CRingId) (a : Slot) :
    (d.pushAnswer c a).dstate = d.dstate := by cases c <;> rfl
@[simp] theorem Device.pushAnswer_hreason (c : CRingId) (a : Slot) :
    (d.pushAnswer c a).hreason = d.hreason := by cases c <;> rfl
@[simp] theorem Device.pushAnswer_rcause (c : CRingId) (a : Slot) :
    (d.pushAnswer c a).rcause = d.rcause := by cases c <;> rfl
@[simp] theorem Device.pushAnswer_alert (c : CRingId) (a : Slot) :
    (d.pushAnswer c a).alert = d.alert := by cases c <;> rfl
@[simp] theorem Device.pushAnswer_control (c : CRingId) (a : Slot) :
    (d.pushAnswer c a).control = d.control := by cases c <;> rfl
@[simp] theorem Device.pushAnswer_bootLo (c : CRingId) (a : Slot) :
    (d.pushAnswer c a).bootLo = d.bootLo := by cases c <;> rfl
@[simp] theorem Device.pushAnswer_bootHi (c : CRingId) (a : Slot) :
    (d.pushAnswer c a).bootHi = d.bootHi := by cases c <;> rfl
@[simp] theorem Device.pushAnswer_bootCopy (c : CRingId) (a : Slot) :
    (d.pushAnswer c a).bootCopy = d.bootCopy := by cases c <;> rfl
@[simp] theorem Device.pushAnswer_bootRead (c : CRingId) (a : Slot) :
    (d.pushAnswer c a).bootRead = d.bootRead := by cases c <;> rfl
@[simp] theorem Device.pushAnswer_snapWrite (c : CRingId) (a : Slot) :
    (d.pushAnswer c a).snapWrite = d.snapWrite := by cases c <;> rfl
@[simp] theorem Device.pushAnswer_now (c : CRingId) (a : Slot) : (d.pushAnswer c a).now = d.now := by cases c <;> rfl
@[simp] theorem Device.pushAnswer_timing (c : CRingId) (a : Slot) :
    (d.pushAnswer c a).timing = d.timing := by cases c <;> rfl
@[simp] theorem Device.pushAnswer_slots (c : CRingId) (a : Slot) :
    (d.pushAnswer c a).slots = d.slots := by cases c <;> rfl
@[simp] theorem Device.pushAnswer_points (c : CRingId) (a : Slot) :
    (d.pushAnswer c a).points = d.points := by cases c <;> rfl
@[simp] theorem Device.pushAnswer_groups (c : CRingId) (a : Slot) :
    (d.pushAnswer c a).groups = d.groups := by cases c <;> rfl
@[simp] theorem Device.pushAnswer_inputs (c : CRingId) (a : Slot) :
    (d.pushAnswer c a).inputs = d.inputs := by cases c <;> rfl
@[simp] theorem Device.pushAnswer_zones (c : CRingId) (a : Slot) :
    (d.pushAnswer c a).zones = d.zones := by cases c <;> rfl
@[simp] theorem Device.pushAnswer_sup (c : CRingId) (a : Slot) : (d.pushAnswer c a).sup = d.sup := by cases c <;> rfl
@[simp] theorem Device.pushAnswer_rings (c : CRingId) (a : Slot) :
    (d.pushAnswer c a).rings = d.rings := by cases c <;> rfl
@[simp] theorem Device.pushAnswer_channel (c : CRingId) (a : Slot) :
    (d.pushAnswer c a).channel = d.channel := by cases c <;> rfl
@[simp] theorem Device.pushAnswer_lastGrant (c : CRingId) (a : Slot) :
    (d.pushAnswer c a).lastGrant = d.lastGrant := by cases c <;> rfl
@[simp] theorem Device.pushAnswer_producerReg (c : CRingId) (a : Slot) :
    (d.pushAnswer c a).producerReg = d.producerReg := by cases c <;> rfl
@[simp] theorem Device.pushAnswer_consumerReg (c : CRingId) (a : Slot) :
    (d.pushAnswer c a).consumerReg = d.consumerReg := by cases c <;> rfl
@[simp] theorem Device.pushAnswer_link (c : CRingId) (a : Slot) :
    (d.pushAnswer c a).link = d.link := by cases c <;> rfl

/-! ### driveLevel -/

@[simp] theorem Device.driveLevel_dstate (p : PointId) (l : Bool) : (d.driveLevel p l).dstate = d.dstate := rfl
@[simp] theorem Device.driveLevel_hreason (p : PointId) (l : Bool) : (d.driveLevel p l).hreason = d.hreason := rfl
@[simp] theorem Device.driveLevel_rcause (p : PointId) (l : Bool) : (d.driveLevel p l).rcause = d.rcause := rfl
@[simp] theorem Device.driveLevel_alert (p : PointId) (l : Bool) : (d.driveLevel p l).alert = d.alert := rfl
@[simp] theorem Device.driveLevel_control (p : PointId) (l : Bool) : (d.driveLevel p l).control = d.control := rfl
@[simp] theorem Device.driveLevel_bootLo (p : PointId) (l : Bool) : (d.driveLevel p l).bootLo = d.bootLo := rfl
@[simp] theorem Device.driveLevel_bootHi (p : PointId) (l : Bool) : (d.driveLevel p l).bootHi = d.bootHi := rfl
@[simp] theorem Device.driveLevel_bootCopy (p : PointId) (l : Bool) : (d.driveLevel p l).bootCopy = d.bootCopy := rfl
@[simp] theorem Device.driveLevel_bootRead (p : PointId) (l : Bool) : (d.driveLevel p l).bootRead = d.bootRead := rfl
@[simp] theorem Device.driveLevel_snapWrite (p : PointId) (l : Bool) :
    (d.driveLevel p l).snapWrite = d.snapWrite := rfl
@[simp] theorem Device.driveLevel_now (p : PointId) (l : Bool) : (d.driveLevel p l).now = d.now := rfl
@[simp] theorem Device.driveLevel_timing (p : PointId) (l : Bool) : (d.driveLevel p l).timing = d.timing := rfl
@[simp] theorem Device.driveLevel_slots (p : PointId) (l : Bool) : (d.driveLevel p l).slots = d.slots := rfl
@[simp] theorem Device.driveLevel_points (p : PointId) (l : Bool) :
    (d.driveLevel p l).points = d.points.set p (d.points[p].drive d.now l) := rfl
@[simp] theorem Device.driveLevel_groups (p : PointId) (l : Bool) : (d.driveLevel p l).groups = d.groups := rfl
@[simp] theorem Device.driveLevel_inputs (p : PointId) (l : Bool) : (d.driveLevel p l).inputs = d.inputs := rfl
@[simp] theorem Device.driveLevel_zones (p : PointId) (l : Bool) : (d.driveLevel p l).zones = d.zones := rfl
@[simp] theorem Device.driveLevel_sup (p : PointId) (l : Bool) : (d.driveLevel p l).sup = d.sup := rfl
@[simp] theorem Device.driveLevel_rings (p : PointId) (l : Bool) : (d.driveLevel p l).rings = d.rings := rfl
@[simp] theorem Device.driveLevel_channel (p : PointId) (l : Bool) : (d.driveLevel p l).channel = d.channel := rfl
@[simp] theorem Device.driveLevel_lastGrant (p : PointId) (l : Bool) :
    (d.driveLevel p l).lastGrant = d.lastGrant := rfl
@[simp] theorem Device.driveLevel_producerReg (p : PointId) (l : Bool) :
    (d.driveLevel p l).producerReg = d.producerReg := rfl
@[simp] theorem Device.driveLevel_c0 (p : PointId) (l : Bool) : (d.driveLevel p l).c0 = d.c0 := rfl
@[simp] theorem Device.driveLevel_c1 (p : PointId) (l : Bool) : (d.driveLevel p l).c1 = d.c1 := rfl
@[simp] theorem Device.driveLevel_consumerReg (p : PointId) (l : Bool) :
    (d.driveLevel p l).consumerReg = d.consumerReg := rfl
@[simp] theorem Device.driveLevel_link (p : PointId) (l : Bool) : (d.driveLevel p l).link = d.link := rfl

/-! ### setClaim -/

@[simp] theorem Device.setClaim_dstate (p : PointId) (c : Option Slot) : (d.setClaim p c).dstate = d.dstate := rfl
@[simp] theorem Device.setClaim_hreason (p : PointId) (c : Option Slot) : (d.setClaim p c).hreason = d.hreason := rfl
@[simp] theorem Device.setClaim_rcause (p : PointId) (c : Option Slot) : (d.setClaim p c).rcause = d.rcause := rfl
@[simp] theorem Device.setClaim_alert (p : PointId) (c : Option Slot) : (d.setClaim p c).alert = d.alert := rfl
@[simp] theorem Device.setClaim_control (p : PointId) (c : Option Slot) : (d.setClaim p c).control = d.control := rfl
@[simp] theorem Device.setClaim_bootLo (p : PointId) (c : Option Slot) : (d.setClaim p c).bootLo = d.bootLo := rfl
@[simp] theorem Device.setClaim_bootHi (p : PointId) (c : Option Slot) : (d.setClaim p c).bootHi = d.bootHi := rfl
@[simp] theorem Device.setClaim_bootCopy (p : PointId) (c : Option Slot) :
    (d.setClaim p c).bootCopy = d.bootCopy := rfl
@[simp] theorem Device.setClaim_bootRead (p : PointId) (c : Option Slot) :
    (d.setClaim p c).bootRead = d.bootRead := rfl
@[simp] theorem Device.setClaim_snapWrite (p : PointId) (c : Option Slot) :
    (d.setClaim p c).snapWrite = d.snapWrite := rfl
@[simp] theorem Device.setClaim_now (p : PointId) (c : Option Slot) : (d.setClaim p c).now = d.now := rfl
@[simp] theorem Device.setClaim_timing (p : PointId) (c : Option Slot) : (d.setClaim p c).timing = d.timing := rfl
@[simp] theorem Device.setClaim_slots (p : PointId) (c : Option Slot) : (d.setClaim p c).slots = d.slots := rfl
@[simp] theorem Device.setClaim_points (p : PointId) (c : Option Slot) :
    (d.setClaim p c).points = d.points.set p { d.points[p] with claim := c } := rfl
@[simp] theorem Device.setClaim_groups (p : PointId) (c : Option Slot) : (d.setClaim p c).groups = d.groups := rfl
@[simp] theorem Device.setClaim_inputs (p : PointId) (c : Option Slot) : (d.setClaim p c).inputs = d.inputs := rfl
@[simp] theorem Device.setClaim_zones (p : PointId) (c : Option Slot) : (d.setClaim p c).zones = d.zones := rfl
@[simp] theorem Device.setClaim_sup (p : PointId) (c : Option Slot) : (d.setClaim p c).sup = d.sup := rfl
@[simp] theorem Device.setClaim_rings (p : PointId) (c : Option Slot) : (d.setClaim p c).rings = d.rings := rfl
@[simp] theorem Device.setClaim_channel (p : PointId) (c : Option Slot) : (d.setClaim p c).channel = d.channel := rfl
@[simp] theorem Device.setClaim_lastGrant (p : PointId) (c : Option Slot) :
    (d.setClaim p c).lastGrant = d.lastGrant := rfl
@[simp] theorem Device.setClaim_producerReg (p : PointId) (c : Option Slot) :
    (d.setClaim p c).producerReg = d.producerReg := rfl
@[simp] theorem Device.setClaim_c0 (p : PointId) (c : Option Slot) : (d.setClaim p c).c0 = d.c0 := rfl
@[simp] theorem Device.setClaim_c1 (p : PointId) (c : Option Slot) : (d.setClaim p c).c1 = d.c1 := rfl
@[simp] theorem Device.setClaim_consumerReg (p : PointId) (c : Option Slot) :
    (d.setClaim p c).consumerReg = d.consumerReg := rfl
@[simp] theorem Device.setClaim_link (p : PointId) (c : Option Slot) : (d.setClaim p c).link = d.link := rfl

/-! ### allOff -/

@[simp] theorem Device.allOff_dstate : (d.allOff).dstate = d.dstate := rfl
@[simp] theorem Device.allOff_hreason : (d.allOff).hreason = d.hreason := rfl
@[simp] theorem Device.allOff_rcause : (d.allOff).rcause = d.rcause := rfl
@[simp] theorem Device.allOff_alert : (d.allOff).alert = d.alert := rfl
@[simp] theorem Device.allOff_control : (d.allOff).control = d.control := rfl
@[simp] theorem Device.allOff_bootLo : (d.allOff).bootLo = d.bootLo := rfl
@[simp] theorem Device.allOff_bootHi : (d.allOff).bootHi = d.bootHi := rfl
@[simp] theorem Device.allOff_bootCopy : (d.allOff).bootCopy = d.bootCopy := rfl
@[simp] theorem Device.allOff_bootRead : (d.allOff).bootRead = d.bootRead := rfl
@[simp] theorem Device.allOff_snapWrite : (d.allOff).snapWrite = d.snapWrite := rfl
@[simp] theorem Device.allOff_now : (d.allOff).now = d.now := rfl
@[simp] theorem Device.allOff_timing : (d.allOff).timing = d.timing := rfl
@[simp] theorem Device.allOff_slots : (d.allOff).slots = d.slots := rfl
@[simp] theorem Device.allOff_groups : (d.allOff).groups = d.groups := rfl
@[simp] theorem Device.allOff_inputs : (d.allOff).inputs = d.inputs := rfl
@[simp] theorem Device.allOff_zones : (d.allOff).zones = d.zones := rfl
@[simp] theorem Device.allOff_sup : (d.allOff).sup = d.sup := rfl
@[simp] theorem Device.allOff_rings : (d.allOff).rings = d.rings := rfl
@[simp] theorem Device.allOff_channel : (d.allOff).channel = d.channel := rfl
@[simp] theorem Device.allOff_lastGrant : (d.allOff).lastGrant = d.lastGrant := rfl
@[simp] theorem Device.allOff_producerReg : (d.allOff).producerReg = d.producerReg := rfl
@[simp] theorem Device.allOff_c0 : (d.allOff).c0 = d.c0 := rfl
@[simp] theorem Device.allOff_c1 : (d.allOff).c1 = d.c1 := rfl
@[simp] theorem Device.allOff_consumerReg : (d.allOff).consumerReg = d.consumerReg := rfl
@[simp] theorem Device.allOff_link : (d.allOff).link = d.link := rfl

/-! ### unwait -/

@[simp] theorem Device.unwait_dstate (a : Slot) : (d.unwait a).dstate = d.dstate := rfl
@[simp] theorem Device.unwait_hreason (a : Slot) : (d.unwait a).hreason = d.hreason := rfl
@[simp] theorem Device.unwait_rcause (a : Slot) : (d.unwait a).rcause = d.rcause := rfl
@[simp] theorem Device.unwait_alert (a : Slot) : (d.unwait a).alert = d.alert := rfl
@[simp] theorem Device.unwait_control (a : Slot) : (d.unwait a).control = d.control := rfl
@[simp] theorem Device.unwait_bootLo (a : Slot) : (d.unwait a).bootLo = d.bootLo := rfl
@[simp] theorem Device.unwait_bootHi (a : Slot) : (d.unwait a).bootHi = d.bootHi := rfl
@[simp] theorem Device.unwait_bootCopy (a : Slot) : (d.unwait a).bootCopy = d.bootCopy := rfl
@[simp] theorem Device.unwait_bootRead (a : Slot) : (d.unwait a).bootRead = d.bootRead := rfl
@[simp] theorem Device.unwait_snapWrite (a : Slot) : (d.unwait a).snapWrite = d.snapWrite := rfl
@[simp] theorem Device.unwait_now (a : Slot) : (d.unwait a).now = d.now := rfl
@[simp] theorem Device.unwait_timing (a : Slot) : (d.unwait a).timing = d.timing := rfl
@[simp] theorem Device.unwait_slots (a : Slot) : (d.unwait a).slots = d.slots := rfl
@[simp] theorem Device.unwait_points (a : Slot) : (d.unwait a).points = d.points := rfl
@[simp] theorem Device.unwait_zones (a : Slot) : (d.unwait a).zones = d.zones := rfl
@[simp] theorem Device.unwait_sup (a : Slot) : (d.unwait a).sup = d.sup := rfl
@[simp] theorem Device.unwait_rings (a : Slot) : (d.unwait a).rings = d.rings := rfl
@[simp] theorem Device.unwait_channel (a : Slot) : (d.unwait a).channel = d.channel := rfl
@[simp] theorem Device.unwait_lastGrant (a : Slot) : (d.unwait a).lastGrant = d.lastGrant := rfl
@[simp] theorem Device.unwait_producerReg (a : Slot) : (d.unwait a).producerReg = d.producerReg := rfl
@[simp] theorem Device.unwait_c0 (a : Slot) : (d.unwait a).c0 = d.c0 := rfl
@[simp] theorem Device.unwait_c1 (a : Slot) : (d.unwait a).c1 = d.c1 := rfl
@[simp] theorem Device.unwait_consumerReg (a : Slot) : (d.unwait a).consumerReg = d.consumerReg := rfl
@[simp] theorem Device.unwait_link (a : Slot) : (d.unwait a).link = d.link := rfl

/-! ### joinTrigger -/

@[simp] theorem Device.joinTrigger_dstate (i : InputId) (a : Slot) : (d.joinTrigger i a).dstate = d.dstate := rfl
@[simp] theorem Device.joinTrigger_hreason (i : InputId) (a : Slot) : (d.joinTrigger i a).hreason = d.hreason := rfl
@[simp] theorem Device.joinTrigger_rcause (i : InputId) (a : Slot) : (d.joinTrigger i a).rcause = d.rcause := rfl
@[simp] theorem Device.joinTrigger_alert (i : InputId) (a : Slot) : (d.joinTrigger i a).alert = d.alert := rfl
@[simp] theorem Device.joinTrigger_control (i : InputId) (a : Slot) : (d.joinTrigger i a).control = d.control := rfl
@[simp] theorem Device.joinTrigger_bootLo (i : InputId) (a : Slot) : (d.joinTrigger i a).bootLo = d.bootLo := rfl
@[simp] theorem Device.joinTrigger_bootHi (i : InputId) (a : Slot) : (d.joinTrigger i a).bootHi = d.bootHi := rfl
@[simp] theorem Device.joinTrigger_bootCopy (i : InputId) (a : Slot) :
    (d.joinTrigger i a).bootCopy = d.bootCopy := rfl
@[simp] theorem Device.joinTrigger_bootRead (i : InputId) (a : Slot) :
    (d.joinTrigger i a).bootRead = d.bootRead := rfl
@[simp] theorem Device.joinTrigger_snapWrite (i : InputId) (a : Slot) :
    (d.joinTrigger i a).snapWrite = d.snapWrite := rfl
@[simp] theorem Device.joinTrigger_now (i : InputId) (a : Slot) : (d.joinTrigger i a).now = d.now := rfl
@[simp] theorem Device.joinTrigger_timing (i : InputId) (a : Slot) : (d.joinTrigger i a).timing = d.timing := rfl
@[simp] theorem Device.joinTrigger_slots (i : InputId) (a : Slot) : (d.joinTrigger i a).slots = d.slots := rfl
@[simp] theorem Device.joinTrigger_points (i : InputId) (a : Slot) : (d.joinTrigger i a).points = d.points := rfl
@[simp] theorem Device.joinTrigger_groups (i : InputId) (a : Slot) : (d.joinTrigger i a).groups = d.groups := rfl
@[simp] theorem Device.joinTrigger_zones (i : InputId) (a : Slot) : (d.joinTrigger i a).zones = d.zones := rfl
@[simp] theorem Device.joinTrigger_sup (i : InputId) (a : Slot) : (d.joinTrigger i a).sup = d.sup := rfl
@[simp] theorem Device.joinTrigger_rings (i : InputId) (a : Slot) : (d.joinTrigger i a).rings = d.rings := rfl
@[simp] theorem Device.joinTrigger_channel (i : InputId) (a : Slot) : (d.joinTrigger i a).channel = d.channel := rfl
@[simp] theorem Device.joinTrigger_lastGrant (i : InputId) (a : Slot) :
    (d.joinTrigger i a).lastGrant = d.lastGrant := rfl
@[simp] theorem Device.joinTrigger_producerReg (i : InputId) (a : Slot) :
    (d.joinTrigger i a).producerReg = d.producerReg := rfl
@[simp] theorem Device.joinTrigger_c0 (i : InputId) (a : Slot) : (d.joinTrigger i a).c0 = d.c0 := rfl
@[simp] theorem Device.joinTrigger_c1 (i : InputId) (a : Slot) : (d.joinTrigger i a).c1 = d.c1 := rfl
@[simp] theorem Device.joinTrigger_consumerReg (i : InputId) (a : Slot) :
    (d.joinTrigger i a).consumerReg = d.consumerReg := rfl
@[simp] theorem Device.joinTrigger_link (i : InputId) (a : Slot) : (d.joinTrigger i a).link = d.link := rfl

/-! ### dropBuffer -/

@[simp] theorem Device.dropBuffer_dstate (r : RingId) : (d.dropBuffer r).dstate = d.dstate := rfl
@[simp] theorem Device.dropBuffer_hreason (r : RingId) : (d.dropBuffer r).hreason = d.hreason := rfl
@[simp] theorem Device.dropBuffer_rcause (r : RingId) : (d.dropBuffer r).rcause = d.rcause := rfl
@[simp] theorem Device.dropBuffer_alert (r : RingId) : (d.dropBuffer r).alert = d.alert := rfl
@[simp] theorem Device.dropBuffer_control (r : RingId) : (d.dropBuffer r).control = d.control := rfl
@[simp] theorem Device.dropBuffer_bootLo (r : RingId) : (d.dropBuffer r).bootLo = d.bootLo := rfl
@[simp] theorem Device.dropBuffer_bootHi (r : RingId) : (d.dropBuffer r).bootHi = d.bootHi := rfl
@[simp] theorem Device.dropBuffer_bootCopy (r : RingId) : (d.dropBuffer r).bootCopy = d.bootCopy := rfl
@[simp] theorem Device.dropBuffer_bootRead (r : RingId) : (d.dropBuffer r).bootRead = d.bootRead := rfl
@[simp] theorem Device.dropBuffer_snapWrite (r : RingId) : (d.dropBuffer r).snapWrite = d.snapWrite := rfl
@[simp] theorem Device.dropBuffer_now (r : RingId) : (d.dropBuffer r).now = d.now := rfl
@[simp] theorem Device.dropBuffer_timing (r : RingId) : (d.dropBuffer r).timing = d.timing := rfl
@[simp] theorem Device.dropBuffer_slots (r : RingId) : (d.dropBuffer r).slots = d.slots := rfl
@[simp] theorem Device.dropBuffer_points (r : RingId) : (d.dropBuffer r).points = d.points := rfl
@[simp] theorem Device.dropBuffer_groups (r : RingId) : (d.dropBuffer r).groups = d.groups := rfl
@[simp] theorem Device.dropBuffer_inputs (r : RingId) : (d.dropBuffer r).inputs = d.inputs := rfl
@[simp] theorem Device.dropBuffer_zones (r : RingId) : (d.dropBuffer r).zones = d.zones := rfl
@[simp] theorem Device.dropBuffer_sup (r : RingId) : (d.dropBuffer r).sup = d.sup := rfl
@[simp] theorem Device.dropBuffer_rings (r : RingId) :
    (d.dropBuffer r).rings = d.rings.set r { d.rings[r] with buf := [] } := rfl
@[simp] theorem Device.dropBuffer_lastGrant (r : RingId) : (d.dropBuffer r).lastGrant = d.lastGrant := rfl
@[simp] theorem Device.dropBuffer_producerReg (r : RingId) : (d.dropBuffer r).producerReg = d.producerReg := rfl
@[simp] theorem Device.dropBuffer_c0 (r : RingId) : (d.dropBuffer r).c0 = d.c0 := rfl
@[simp] theorem Device.dropBuffer_c1 (r : RingId) : (d.dropBuffer r).c1 = d.c1 := rfl
@[simp] theorem Device.dropBuffer_consumerReg (r : RingId) : (d.dropBuffer r).consumerReg = d.consumerReg := rfl
@[simp] theorem Device.dropBuffer_link (r : RingId) : (d.dropBuffer r).link = d.link := rfl

/-! ### closeGates -/

@[simp] theorem Device.closeGates_dstate : (d.closeGates).dstate = d.dstate := rfl
@[simp] theorem Device.closeGates_hreason : (d.closeGates).hreason = d.hreason := rfl
@[simp] theorem Device.closeGates_rcause : (d.closeGates).rcause = d.rcause := rfl
@[simp] theorem Device.closeGates_alert : (d.closeGates).alert = d.alert := rfl
@[simp] theorem Device.closeGates_control : (d.closeGates).control = d.control := rfl
@[simp] theorem Device.closeGates_bootLo : (d.closeGates).bootLo = d.bootLo := rfl
@[simp] theorem Device.closeGates_bootHi : (d.closeGates).bootHi = d.bootHi := rfl
@[simp] theorem Device.closeGates_bootCopy : (d.closeGates).bootCopy = d.bootCopy := rfl
@[simp] theorem Device.closeGates_bootRead : (d.closeGates).bootRead = d.bootRead := rfl
@[simp] theorem Device.closeGates_snapWrite : (d.closeGates).snapWrite = d.snapWrite := rfl
@[simp] theorem Device.closeGates_now : (d.closeGates).now = d.now := rfl
@[simp] theorem Device.closeGates_timing : (d.closeGates).timing = d.timing := rfl
@[simp] theorem Device.closeGates_slots : (d.closeGates).slots = d.slots := rfl
@[simp] theorem Device.closeGates_points : (d.closeGates).points = d.points := rfl
@[simp] theorem Device.closeGates_inputs : (d.closeGates).inputs = d.inputs := rfl
@[simp] theorem Device.closeGates_zones : (d.closeGates).zones = d.zones := rfl
@[simp] theorem Device.closeGates_sup : (d.closeGates).sup = d.sup := rfl
@[simp] theorem Device.closeGates_rings : (d.closeGates).rings = d.rings := rfl
@[simp] theorem Device.closeGates_channel : (d.closeGates).channel = d.channel := rfl
@[simp] theorem Device.closeGates_lastGrant : (d.closeGates).lastGrant = d.lastGrant := rfl
@[simp] theorem Device.closeGates_producerReg : (d.closeGates).producerReg = d.producerReg := rfl
@[simp] theorem Device.closeGates_c0 : (d.closeGates).c0 = d.c0 := rfl
@[simp] theorem Device.closeGates_c1 : (d.closeGates).c1 = d.c1 := rfl
@[simp] theorem Device.closeGates_consumerReg : (d.closeGates).consumerReg = d.consumerReg := rfl
@[simp] theorem Device.closeGates_link : (d.closeGates).link = d.link := rfl

/-! ### armCountdown -/

@[simp] theorem Device.armCountdown_dstate (x : Supv) : (d.armCountdown x).dstate = d.dstate := rfl
@[simp] theorem Device.armCountdown_hreason (x : Supv) : (d.armCountdown x).hreason = d.hreason := rfl
@[simp] theorem Device.armCountdown_rcause (x : Supv) : (d.armCountdown x).rcause = d.rcause := rfl
@[simp] theorem Device.armCountdown_alert (x : Supv) : (d.armCountdown x).alert = d.alert := rfl
@[simp] theorem Device.armCountdown_control (x : Supv) : (d.armCountdown x).control = d.control := rfl
@[simp] theorem Device.armCountdown_bootLo (x : Supv) : (d.armCountdown x).bootLo = d.bootLo := rfl
@[simp] theorem Device.armCountdown_bootHi (x : Supv) : (d.armCountdown x).bootHi = d.bootHi := rfl
@[simp] theorem Device.armCountdown_bootCopy (x : Supv) : (d.armCountdown x).bootCopy = d.bootCopy := rfl
@[simp] theorem Device.armCountdown_bootRead (x : Supv) : (d.armCountdown x).bootRead = d.bootRead := rfl
@[simp] theorem Device.armCountdown_snapWrite (x : Supv) : (d.armCountdown x).snapWrite = d.snapWrite := rfl
@[simp] theorem Device.armCountdown_now (x : Supv) : (d.armCountdown x).now = d.now := rfl
@[simp] theorem Device.armCountdown_timing (x : Supv) : (d.armCountdown x).timing = d.timing := rfl
@[simp] theorem Device.armCountdown_slots (x : Supv) : (d.armCountdown x).slots = d.slots := rfl
@[simp] theorem Device.armCountdown_points (x : Supv) : (d.armCountdown x).points = d.points := rfl
@[simp] theorem Device.armCountdown_groups (x : Supv) : (d.armCountdown x).groups = d.groups := rfl
@[simp] theorem Device.armCountdown_inputs (x : Supv) : (d.armCountdown x).inputs = d.inputs := rfl
@[simp] theorem Device.armCountdown_zones (x : Supv) : (d.armCountdown x).zones = d.zones := rfl
@[simp] theorem Device.armCountdown_rings (x : Supv) : (d.armCountdown x).rings = d.rings := rfl
@[simp] theorem Device.armCountdown_channel (x : Supv) : (d.armCountdown x).channel = d.channel := rfl
@[simp] theorem Device.armCountdown_lastGrant (x : Supv) : (d.armCountdown x).lastGrant = d.lastGrant := rfl
@[simp] theorem Device.armCountdown_producerReg (x : Supv) : (d.armCountdown x).producerReg = d.producerReg := rfl
@[simp] theorem Device.armCountdown_c0 (x : Supv) : (d.armCountdown x).c0 = d.c0 := rfl
@[simp] theorem Device.armCountdown_c1 (x : Supv) : (d.armCountdown x).c1 = d.c1 := rfl
@[simp] theorem Device.armCountdown_consumerReg (x : Supv) : (d.armCountdown x).consumerReg = d.consumerReg := rfl
@[simp] theorem Device.armCountdown_link (x : Supv) : (d.armCountdown x).link = d.link := rfl

/-! ### stopSupervision -/

@[simp] theorem Device.stopSupervision_dstate : (d.stopSupervision).dstate = d.dstate := rfl
@[simp] theorem Device.stopSupervision_hreason : (d.stopSupervision).hreason = d.hreason := rfl
@[simp] theorem Device.stopSupervision_rcause : (d.stopSupervision).rcause = d.rcause := rfl
@[simp] theorem Device.stopSupervision_alert : (d.stopSupervision).alert = d.alert := rfl
@[simp] theorem Device.stopSupervision_control : (d.stopSupervision).control = d.control := rfl
@[simp] theorem Device.stopSupervision_bootLo : (d.stopSupervision).bootLo = d.bootLo := rfl
@[simp] theorem Device.stopSupervision_bootHi : (d.stopSupervision).bootHi = d.bootHi := rfl
@[simp] theorem Device.stopSupervision_bootCopy : (d.stopSupervision).bootCopy = d.bootCopy := rfl
@[simp] theorem Device.stopSupervision_bootRead : (d.stopSupervision).bootRead = d.bootRead := rfl
@[simp] theorem Device.stopSupervision_snapWrite : (d.stopSupervision).snapWrite = d.snapWrite := rfl
@[simp] theorem Device.stopSupervision_now : (d.stopSupervision).now = d.now := rfl
@[simp] theorem Device.stopSupervision_timing : (d.stopSupervision).timing = d.timing := rfl
@[simp] theorem Device.stopSupervision_slots : (d.stopSupervision).slots = d.slots := rfl
@[simp] theorem Device.stopSupervision_points : (d.stopSupervision).points = d.points := rfl
@[simp] theorem Device.stopSupervision_groups : (d.stopSupervision).groups = d.groups := rfl
@[simp] theorem Device.stopSupervision_inputs : (d.stopSupervision).inputs = d.inputs := rfl
@[simp] theorem Device.stopSupervision_zones : (d.stopSupervision).zones = d.zones := rfl
@[simp] theorem Device.stopSupervision_sup :
    (d.stopSupervision).sup = { d.sup with supv := .off, countdown := none } := rfl
@[simp] theorem Device.stopSupervision_rings : (d.stopSupervision).rings = d.rings := rfl
@[simp] theorem Device.stopSupervision_channel : (d.stopSupervision).channel = d.channel := rfl
@[simp] theorem Device.stopSupervision_lastGrant : (d.stopSupervision).lastGrant = d.lastGrant := rfl
@[simp] theorem Device.stopSupervision_producerReg : (d.stopSupervision).producerReg = d.producerReg := rfl
@[simp] theorem Device.stopSupervision_c0 : (d.stopSupervision).c0 = d.c0 := rfl
@[simp] theorem Device.stopSupervision_c1 : (d.stopSupervision).c1 = d.c1 := rfl
@[simp] theorem Device.stopSupervision_consumerReg : (d.stopSupervision).consumerReg = d.consumerReg := rfl
@[simp] theorem Device.stopSupervision_link : (d.stopSupervision).link = d.link := rfl

/-! ### takeHead -/

@[simp] theorem Device.takeHead_dstate (r : RingId) (a : Slot) (h : RawRecord) (l : List RawRecord) :
    (d.takeHead r a h l).dstate = d.dstate := rfl
@[simp] theorem Device.takeHead_hreason (r : RingId) (a : Slot) (h : RawRecord) (l : List RawRecord) :
    (d.takeHead r a h l).hreason = d.hreason := rfl
@[simp] theorem Device.takeHead_rcause (r : RingId) (a : Slot) (h : RawRecord) (l : List RawRecord) :
    (d.takeHead r a h l).rcause = d.rcause := rfl
@[simp] theorem Device.takeHead_alert (r : RingId) (a : Slot) (h : RawRecord) (l : List RawRecord) :
    (d.takeHead r a h l).alert = d.alert := rfl
@[simp] theorem Device.takeHead_control (r : RingId) (a : Slot) (h : RawRecord) (l : List RawRecord) :
    (d.takeHead r a h l).control = d.control := rfl
@[simp] theorem Device.takeHead_bootLo (r : RingId) (a : Slot) (h : RawRecord) (l : List RawRecord) :
    (d.takeHead r a h l).bootLo = d.bootLo := rfl
@[simp] theorem Device.takeHead_bootHi (r : RingId) (a : Slot) (h : RawRecord) (l : List RawRecord) :
    (d.takeHead r a h l).bootHi = d.bootHi := rfl
@[simp] theorem Device.takeHead_bootCopy (r : RingId) (a : Slot) (h : RawRecord) (l : List RawRecord) :
    (d.takeHead r a h l).bootCopy = d.bootCopy := rfl
@[simp] theorem Device.takeHead_bootRead (r : RingId) (a : Slot) (h : RawRecord) (l : List RawRecord) :
    (d.takeHead r a h l).bootRead = d.bootRead := rfl
@[simp] theorem Device.takeHead_snapWrite (r : RingId) (a : Slot) (h : RawRecord) (l : List RawRecord) :
    (d.takeHead r a h l).snapWrite = d.snapWrite := rfl
@[simp] theorem Device.takeHead_now (r : RingId) (a : Slot) (h : RawRecord) (l : List RawRecord) :
    (d.takeHead r a h l).now = d.now := rfl
@[simp] theorem Device.takeHead_timing (r : RingId) (a : Slot) (h : RawRecord) (l : List RawRecord) :
    (d.takeHead r a h l).timing = d.timing := rfl
@[simp] theorem Device.takeHead_slots (r : RingId) (a : Slot) (h : RawRecord) (l : List RawRecord) :
    (d.takeHead r a h l).slots = d.slots.set a (some { ring := r, pos := d.rings[r].tail, record := h, st := .intake }) := rfl
@[simp] theorem Device.takeHead_points (r : RingId) (a : Slot) (h : RawRecord) (l : List RawRecord) :
    (d.takeHead r a h l).points = d.points := rfl
@[simp] theorem Device.takeHead_groups (r : RingId) (a : Slot) (h : RawRecord) (l : List RawRecord) :
    (d.takeHead r a h l).groups = d.groups := rfl
@[simp] theorem Device.takeHead_inputs (r : RingId) (a : Slot) (h : RawRecord) (l : List RawRecord) :
    (d.takeHead r a h l).inputs = d.inputs := rfl
@[simp] theorem Device.takeHead_zones (r : RingId) (a : Slot) (h : RawRecord) (l : List RawRecord) :
    (d.takeHead r a h l).zones = d.zones := rfl
@[simp] theorem Device.takeHead_sup (r : RingId) (a : Slot) (h : RawRecord) (l : List RawRecord) :
    (d.takeHead r a h l).sup = d.sup := rfl
@[simp] theorem Device.takeHead_rings (r : RingId) (a : Slot) (h : RawRecord) (l : List RawRecord) :
    (d.takeHead r a h l).rings = d.rings.set r { d.rings[r] with buf := l, tail := (d.rings[r].tail + 1) % d.rings[r].size } := rfl
@[simp] theorem Device.takeHead_channel (r : RingId) (a : Slot) (h : RawRecord) (l : List RawRecord) :
    (d.takeHead r a h l).channel = d.channel := rfl
@[simp] theorem Device.takeHead_lastGrant (r : RingId) (a : Slot) (h : RawRecord) (l : List RawRecord) :
    (d.takeHead r a h l).lastGrant = d.lastGrant := rfl
@[simp] theorem Device.takeHead_producerReg (r : RingId) (a : Slot) (h : RawRecord) (l : List RawRecord) :
    (d.takeHead r a h l).producerReg = d.producerReg := rfl
@[simp] theorem Device.takeHead_c0 (r : RingId) (a : Slot) (h : RawRecord) (l : List RawRecord) :
    (d.takeHead r a h l).c0 = d.c0 := rfl
@[simp] theorem Device.takeHead_c1 (r : RingId) (a : Slot) (h : RawRecord) (l : List RawRecord) :
    (d.takeHead r a h l).c1 = d.c1 := rfl
@[simp] theorem Device.takeHead_consumerReg (r : RingId) (a : Slot) (h : RawRecord) (l : List RawRecord) :
    (d.takeHead r a h l).consumerReg = d.consumerReg := rfl
@[simp] theorem Device.takeHead_link (r : RingId) (a : Slot) (h : RawRecord) (l : List RawRecord) :
    (d.takeHead r a h l).link = d.link := rfl

/-! ### An input's sample and its edge -/

@[simp] theorem Input.sample_debounce (i : Input) : i.sample.debounce = i.debounce := rfl
@[simp] theorem Input.sample_invert (i : Input) : i.sample.invert = i.invert := rfl
@[simp] theorem Input.sample_pin (i : Input) : i.sample.pin = (!i.pin) := rfl
@[simp] theorem Input.sample_raw (i : Input) : i.sample.raw = ((!i.pin) != i.invert) := rfl
@[simp] theorem Input.sample_qualified (i : Input) : i.sample.qualified = i.qualified := rfl
@[simp] theorem Input.sample_pendingSince (i : Input) : i.sample.pendingSince = i.pendingSince := rfl
@[simp] theorem Input.sample_capture (i : Input) : i.sample.capture = i.capture := rfl
@[simp] theorem Input.sample_waits (i : Input) : i.sample.waits = i.waits := rfl
@[simp] theorem Input.sample_moved (i : Input) : i.sample.moved = true := rfl
@[simp] theorem Input.qualify_debounce (i : Input) (t : Time) : (i.qualify t).debounce = i.debounce := rfl
@[simp] theorem Input.qualify_invert (i : Input) (t : Time) : (i.qualify t).invert = i.invert := rfl
@[simp] theorem Input.qualify_pin (i : Input) (t : Time) : (i.qualify t).pin = i.pin := rfl
@[simp] theorem Input.qualify_raw (i : Input) (t : Time) : (i.qualify t).raw = i.raw := rfl
@[simp] theorem Input.qualify_qualified (i : Input) (t : Time) : (i.qualify t).qualified = i.raw := rfl
@[simp] theorem Input.qualify_pendingSince (i : Input) (t : Time) : (i.qualify t).pendingSince = none := rfl
@[simp] theorem Input.qualify_capture (i : Input) (t : Time) : (i.qualify t).capture = t := rfl
@[simp] theorem Input.qualify_waits (i : Input) (t : Time) : (i.qualify t).waits = i.waits := rfl
@[simp] theorem Input.qualify_moved (i : Input) (t : Time) : (i.qualify t).moved = i.moved := rfl

/-! ### The completion rings by name -/

@[simp] theorem Device.cring_c0 : d.cring .c0 = d.c0 := rfl
@[simp] theorem Device.cring_c1 : d.cring .c1 = d.c1 := rfl
@[simp] theorem Device.setCRing_c0_c0 (v : CRing) : (d.setCRing .c0 v).c0 = v := rfl
@[simp] theorem Device.setCRing_c0_c1 (v : CRing) : (d.setCRing .c0 v).c1 = d.c1 := rfl
@[simp] theorem Device.setCRing_c1_c1 (v : CRing) : (d.setCRing .c1 v).c1 = v := rfl
@[simp] theorem Device.setCRing_c1_c0 (v : CRing) : (d.setCRing .c1 v).c0 = d.c0 := rfl

theorem Device.cring_setCRing (c c' : CRingId) (v : CRing) :
    (d.setCRing c v).cring c' = if c' = c then v else d.cring c' := by
  cases c <;> cases c' <;> rfl

@[simp] theorem Device.cring_setCRing_same (c : CRingId) (v : CRing) : (d.setCRing c v).cring c = v := by
  cases c <;> rfl

end Sys2Proof.Machine
end

