-- ==== Sys2Proof/Laws/Closing.lean ====
section
/-! SUPPORT. How an event closes: `Device.event` is `closedFrom`. -/

namespace Sys2Proof.Machine

/-- With the bus ready, the issue of a completion write only fills the ring's write in flight. -/
theorem issue_eq_of_busReady (d : Device) (c : CRingId) (h : d.busReady = true) :
    d.issue c = d.setCRing c { d.cring c with inflight := d.nextWrite c } := by
  have same : d = d.setCRing c (d.cring c) := by cases c <;> rfl
  unfold Device.issue Device.nextWrite
  cases hq : d.queueHead c with
  | none =>
    cases hi : (d.cring c).inflight with
    | none => simp [← hi, ← same]
    | some w => simp [← hi, ← same]
  | some x =>
    cases hi : (d.cring c).inflight with
    | none =>
      by_cases hm : d.mayIssue c <;> simp [hm, h]
      rw [← hi]; exact same
    | some w =>
      have hm : d.mayIssue c = false := by simp [Device.mayIssue, hi]
      simp [hm, ← hi, ← same]

/-- With the bus ready, a grant only sets the channel and the last granted ring. -/
theorem grant_eq_of_busReady (d : Device) (h : d.busReady = true) :
    d.grant = { d with channel := d.nextRead, lastGrant := d.nextGrant } := by
  unfold Device.grant Device.nextRead Device.nextGrant
  cases hc : d.channel with
  | some op => simp [← hc]
  | none =>
    cases ha : d.arbiter with
    | none => simp [← hc]
    | some r => simp [h]

/-- The end of an event changes at most the count of messages sent. -/
theorem signalRise_eq (d before : Device) (r : Bool) :
    d.signalRise before r =
      { d with
        link := { d.link with
          messages := d.link.messages + (if d.link.msi && (!before.request && d.request || r) then 1 else 0) } } := by
  unfold Device.signalRise
  split <;> simp_all

/-- The issue of what is due is `served`. -/
theorem settle_eq_served (d : Device) : d.settle = d.served := by
  unfold Device.settle Device.served
  split
  next h =>
    have h1 : (d.issue .c1).busReady = true := by rw [issue_eq_of_busReady _ _ h]; exact h
    have h0 : ((d.issue .c1).issue .c0).busReady = true := by rw [issue_eq_of_busReady _ _ h1]; exact h1
    unfold Device.service
    rw [grant_eq_of_busReady _ h0, issue_eq_of_busReady _ _ h1, issue_eq_of_busReady _ _ h]
    rfl
  · rfl

/-- An event is its own effect closed as `closedFrom` says. -/
theorem event_eq_closedFrom (d : Device) (f : Device → Device) : d.event f = d.closedFrom (f d) := by
  unfold Device.event Device.closedFrom
  rw [settle_eq_served, signalRise_eq, Bool.or_false, ← Bool.and_assoc]

end Sys2Proof.Machine
end

