-- ==== Sys2Proof/Laws/Ops.lean ====
section
/-! SUPPORT. What each shared operation leaves as it was, field by field. -/

namespace Sys2Proof.Machine

variable (d : Device)

/-! ### answer -/

/-- What `answer` leaves as it was. -/
theorem Device.answer_frame (a : Slot) (st : Status) (x : Word) :
    (d.answer a st x).dstate = d.dstate ∧
    (d.answer a st x).hreason = d.hreason ∧
    (d.answer a st x).rcause = d.rcause ∧
    (d.answer a st x).alert = d.alert ∧
    (d.answer a st x).control = d.control ∧
    (d.answer a st x).bootLo = d.bootLo ∧
    (d.answer a st x).bootHi = d.bootHi ∧
    (d.answer a st x).bootCopy = d.bootCopy ∧
    (d.answer a st x).bootRead = d.bootRead ∧
    (d.answer a st x).snapWrite = d.snapWrite ∧
    (d.answer a st x).now = d.now ∧
    (d.answer a st x).points = d.points ∧
    (d.answer a st x).groups = d.groups ∧
    (d.answer a st x).inputs = d.inputs ∧
    (d.answer a st x).zones = d.zones ∧
    (d.answer a st x).sup = d.sup ∧
    (d.answer a st x).rings = d.rings ∧
    (d.answer a st x).channel = d.channel ∧
    (d.answer a st x).lastGrant = d.lastGrant ∧
    (d.answer a st x).producerReg = d.producerReg ∧
    (d.answer a st x).consumerReg = d.consumerReg ∧
    (d.answer a st x).link = d.link := by
  unfold Device.answer
  repeat' split
  all_goals simp

@[simp] theorem Device.answer_dstate (a : Slot) (st : Status) (x : Word) : (d.answer a st x).dstate = d.dstate := (d.answer_frame a st x).1
@[simp] theorem Device.answer_hreason (a : Slot) (st : Status) (x : Word) : (d.answer a st x).hreason = d.hreason := (d.answer_frame a st x).2.1
@[simp] theorem Device.answer_rcause (a : Slot) (st : Status) (x : Word) : (d.answer a st x).rcause = d.rcause := (d.answer_frame a st x).2.2.1
@[simp] theorem Device.answer_alert (a : Slot) (st : Status) (x : Word) : (d.answer a st x).alert = d.alert := (d.answer_frame a st x).2.2.2.1
@[simp] theorem Device.answer_control (a : Slot) (st : Status) (x : Word) : (d.answer a st x).control = d.control := (d.answer_frame a st x).2.2.2.2.1
@[simp] theorem Device.answer_bootLo (a : Slot) (st : Status) (x : Word) : (d.answer a st x).bootLo = d.bootLo := (d.answer_frame a st x).2.2.2.2.2.1
@[simp] theorem Device.answer_bootHi (a : Slot) (st : Status) (x : Word) : (d.answer a st x).bootHi = d.bootHi := (d.answer_frame a st x).2.2.2.2.2.2.1
@[simp] theorem Device.answer_bootCopy (a : Slot) (st : Status) (x : Word) : (d.answer a st x).bootCopy = d.bootCopy := (d.answer_frame a st x).2.2.2.2.2.2.2.1
@[simp] theorem Device.answer_bootRead (a : Slot) (st : Status) (x : Word) : (d.answer a st x).bootRead = d.bootRead := (d.answer_frame a st x).2.2.2.2.2.2.2.2.1
@[simp] theorem Device.answer_snapWrite (a : Slot) (st : Status) (x : Word) : (d.answer a st x).snapWrite = d.snapWrite := (d.answer_frame a st x).2.2.2.2.2.2.2.2.2.1
@[simp] theorem Device.answer_now (a : Slot) (st : Status) (x : Word) : (d.answer a st x).now = d.now := (d.answer_frame a st x).2.2.2.2.2.2.2.2.2.2.1
@[simp] theorem Device.answer_points (a : Slot) (st : Status) (x : Word) : (d.answer a st x).points = d.points := (d.answer_frame a st x).2.2.2.2.2.2.2.2.2.2.2.1
@[simp] theorem Device.answer_groups (a : Slot) (st : Status) (x : Word) : (d.answer a st x).groups = d.groups := (d.answer_frame a st x).2.2.2.2.2.2.2.2.2.2.2.2.1
@[simp] theorem Device.answer_inputs (a : Slot) (st : Status) (x : Word) : (d.answer a st x).inputs = d.inputs := (d.answer_frame a st x).2.2.2.2.2.2.2.2.2.2.2.2.2.1
@[simp] theorem Device.answer_zones (a : Slot) (st : Status) (x : Word) : (d.answer a st x).zones = d.zones := (d.answer_frame a st x).2.2.2.2.2.2.2.2.2.2.2.2.2.2.1
@[simp] theorem Device.answer_sup (a : Slot) (st : Status) (x : Word) : (d.answer a st x).sup = d.sup := (d.answer_frame a st x).2.2.2.2.2.2.2.2.2.2.2.2.2.2.2.1
@[simp] theorem Device.answer_rings (a : Slot) (st : Status) (x : Word) : (d.answer a st x).rings = d.rings := (d.answer_frame a st x).2.2.2.2.2.2.2.2.2.2.2.2.2.2.2.2.1
@[simp] theorem Device.answer_channel (a : Slot) (st : Status) (x : Word) : (d.answer a st x).channel = d.channel := (d.answer_frame a st x).2.2.2.2.2.2.2.2.2.2.2.2.2.2.2.2.2.1
@[simp] theorem Device.answer_lastGrant (a : Slot) (st : Status) (x : Word) : (d.answer a st x).lastGrant = d.lastGrant := (d.answer_frame a st x).2.2.2.2.2.2.2.2.2.2.2.2.2.2.2.2.2.2.1
@[simp] theorem Device.answer_producerReg (a : Slot) (st : Status) (x : Word) : (d.answer a st x).producerReg = d.producerReg := (d.answer_frame a st x).2.2.2.2.2.2.2.2.2.2.2.2.2.2.2.2.2.2.2.1
@[simp] theorem Device.answer_consumerReg (a : Slot) (st : Status) (x : Word) : (d.answer a st x).consumerReg = d.consumerReg := (d.answer_frame a st x).2.2.2.2.2.2.2.2.2.2.2.2.2.2.2.2.2.2.2.2.1
@[simp] theorem Device.answer_link (a : Slot) (st : Status) (x : Word) : (d.answer a st x).link = d.link := (d.answer_frame a st x).2.2.2.2.2.2.2.2.2.2.2.2.2.2.2.2.2.2.2.2.2

/-! ### setEntryState -/

/-- What `setEntryState` leaves as it was. -/
theorem Device.setEntryState_frame (a : Slot) (st : EntryState) :
    (d.setEntryState a st).dstate = d.dstate ∧
    (d.setEntryState a st).hreason = d.hreason ∧
    (d.setEntryState a st).rcause = d.rcause ∧
    (d.setEntryState a st).alert = d.alert ∧
    (d.setEntryState a st).control = d.control ∧
    (d.setEntryState a st).bootLo = d.bootLo ∧
    (d.setEntryState a st).bootHi = d.bootHi ∧
    (d.setEntryState a st).bootCopy = d.bootCopy ∧
    (d.setEntryState a st).bootRead = d.bootRead ∧
    (d.setEntryState a st).snapWrite = d.snapWrite ∧
    (d.setEntryState a st).now = d.now ∧
    (d.setEntryState a st).timing = d.timing ∧
    (d.setEntryState a st).points = d.points ∧
    (d.setEntryState a st).groups = d.groups ∧
    (d.setEntryState a st).inputs = d.inputs ∧
    (d.setEntryState a st).zones = d.zones ∧
    (d.setEntryState a st).sup = d.sup ∧
    (d.setEntryState a st).rings = d.rings ∧
    (d.setEntryState a st).channel = d.channel ∧
    (d.setEntryState a st).lastGrant = d.lastGrant ∧
    (d.setEntryState a st).producerReg = d.producerReg ∧
    (d.setEntryState a st).c0 = d.c0 ∧
    (d.setEntryState a st).c1 = d.c1 ∧
    (d.setEntryState a st).consumerReg = d.consumerReg ∧
    (d.setEntryState a st).link = d.link := by
  unfold Device.setEntryState
  repeat' split
  all_goals simp

@[simp] theorem Device.setEntryState_dstate (a : Slot) (st : EntryState) : (d.setEntryState a st).dstate = d.dstate := (d.setEntryState_frame a st).1
@[simp] theorem Device.setEntryState_hreason (a : Slot) (st : EntryState) : (d.setEntryState a st).hreason = d.hreason := (d.setEntryState_frame a st).2.1
@[simp] theorem Device.setEntryState_rcause (a : Slot) (st : EntryState) : (d.setEntryState a st).rcause = d.rcause := (d.setEntryState_frame a st).2.2.1
@[simp] theorem Device.setEntryState_alert (a : Slot) (st : EntryState) : (d.setEntryState a st).alert = d.alert := (d.setEntryState_frame a st).2.2.2.1
@[simp] theorem Device.setEntryState_control (a : Slot) (st : EntryState) : (d.setEntryState a st).control = d.control := (d.setEntryState_frame a st).2.2.2.2.1
@[simp] theorem Device.setEntryState_bootLo (a : Slot) (st : EntryState) : (d.setEntryState a st).bootLo = d.bootLo := (d.setEntryState_frame a st).2.2.2.2.2.1
@[simp] theorem Device.setEntryState_bootHi (a : Slot) (st : EntryState) : (d.setEntryState a st).bootHi = d.bootHi := (d.setEntryState_frame a st).2.2.2.2.2.2.1
@[simp] theorem Device.setEntryState_bootCopy (a : Slot) (st : EntryState) : (d.setEntryState a st).bootCopy = d.bootCopy := (d.setEntryState_frame a st).2.2.2.2.2.2.2.1
@[simp] theorem Device.setEntryState_bootRead (a : Slot) (st : EntryState) : (d.setEntryState a st).bootRead = d.bootRead := (d.setEntryState_frame a st).2.2.2.2.2.2.2.2.1
@[simp] theorem Device.setEntryState_snapWrite (a : Slot) (st : EntryState) : (d.setEntryState a st).snapWrite = d.snapWrite := (d.setEntryState_frame a st).2.2.2.2.2.2.2.2.2.1
@[simp] theorem Device.setEntryState_now (a : Slot) (st : EntryState) : (d.setEntryState a st).now = d.now := (d.setEntryState_frame a st).2.2.2.2.2.2.2.2.2.2.1
@[simp] theorem Device.setEntryState_timing (a : Slot) (st : EntryState) : (d.setEntryState a st).timing = d.timing := (d.setEntryState_frame a st).2.2.2.2.2.2.2.2.2.2.2.1
@[simp] theorem Device.setEntryState_points (a : Slot) (st : EntryState) : (d.setEntryState a st).points = d.points := (d.setEntryState_frame a st).2.2.2.2.2.2.2.2.2.2.2.2.1
@[simp] theorem Device.setEntryState_groups (a : Slot) (st : EntryState) : (d.setEntryState a st).groups = d.groups := (d.setEntryState_frame a st).2.2.2.2.2.2.2.2.2.2.2.2.2.1
@[simp] theorem Device.setEntryState_inputs (a : Slot) (st : EntryState) : (d.setEntryState a st).inputs = d.inputs := (d.setEntryState_frame a st).2.2.2.2.2.2.2.2.2.2.2.2.2.2.1
@[simp] theorem Device.setEntryState_zones (a : Slot) (st : EntryState) : (d.setEntryState a st).zones = d.zones := (d.setEntryState_frame a st).2.2.2.2.2.2.2.2.2.2.2.2.2.2.2.1
@[simp] theorem Device.setEntryState_sup (a : Slot) (st : EntryState) : (d.setEntryState a st).sup = d.sup := (d.setEntryState_frame a st).2.2.2.2.2.2.2.2.2.2.2.2.2.2.2.2.1
@[simp] theorem Device.setEntryState_rings (a : Slot) (st : EntryState) : (d.setEntryState a st).rings = d.rings := (d.setEntryState_frame a st).2.2.2.2.2.2.2.2.2.2.2.2.2.2.2.2.2.1
@[simp] theorem Device.setEntryState_channel (a : Slot) (st : EntryState) : (d.setEntryState a st).channel = d.channel := (d.setEntryState_frame a st).2.2.2.2.2.2.2.2.2.2.2.2.2.2.2.2.2.2.1
@[simp] theorem Device.setEntryState_lastGrant (a : Slot) (st : EntryState) : (d.setEntryState a st).lastGrant = d.lastGrant := (d.setEntryState_frame a st).2.2.2.2.2.2.2.2.2.2.2.2.2.2.2.2.2.2.2.1
@[simp] theorem Device.setEntryState_producerReg (a : Slot) (st : EntryState) : (d.setEntryState a st).producerReg = d.producerReg := (d.setEntryState_frame a st).2.2.2.2.2.2.2.2.2.2.2.2.2.2.2.2.2.2.2.2.1
@[simp] theorem Device.setEntryState_c0 (a : Slot) (st : EntryState) : (d.setEntryState a st).c0 = d.c0 := (d.setEntryState_frame a st).2.2.2.2.2.2.2.2.2.2.2.2.2.2.2.2.2.2.2.2.2.1
@[simp] theorem Device.setEntryState_c1 (a : Slot) (st : EntryState) : (d.setEntryState a st).c1 = d.c1 := (d.setEntryState_frame a st).2.2.2.2.2.2.2.2.2.2.2.2.2.2.2.2.2.2.2.2.2.2.1
@[simp] theorem Device.setEntryState_consumerReg (a : Slot) (st : EntryState) : (d.setEntryState a st).consumerReg = d.consumerReg := (d.setEntryState_frame a st).2.2.2.2.2.2.2.2.2.2.2.2.2.2.2.2.2.2.2.2.2.2.2.1
@[simp] theorem Device.setEntryState_link (a : Slot) (st : EntryState) : (d.setEntryState a st).link = d.link := (d.setEntryState_frame a st).2.2.2.2.2.2.2.2.2.2.2.2.2.2.2.2.2.2.2.2.2.2.2.2

/-! ### joinGate -/

/-- What `joinGate` leaves as it was. -/
theorem Device.joinGate_frame (g : Fin 8) (a : Slot) :
    (d.joinGate g a).dstate = d.dstate ∧
    (d.joinGate g a).hreason = d.hreason ∧
    (d.joinGate g a).rcause = d.rcause ∧
    (d.joinGate g a).alert = d.alert ∧
    (d.joinGate g a).control = d.control ∧
    (d.joinGate g a).bootLo = d.bootLo ∧
    (d.joinGate g a).bootHi = d.bootHi ∧
    (d.joinGate g a).bootCopy = d.bootCopy ∧
    (d.joinGate g a).bootRead = d.bootRead ∧
    (d.joinGate g a).snapWrite = d.snapWrite ∧
    (d.joinGate g a).now = d.now ∧
    (d.joinGate g a).timing = d.timing ∧
    (d.joinGate g a).slots = d.slots ∧
    (d.joinGate g a).points = d.points ∧
    (d.joinGate g a).inputs = d.inputs ∧
    (d.joinGate g a).zones = d.zones ∧
    (d.joinGate g a).sup = d.sup ∧
    (d.joinGate g a).rings = d.rings ∧
    (d.joinGate g a).channel = d.channel ∧
    (d.joinGate g a).lastGrant = d.lastGrant ∧
    (d.joinGate g a).producerReg = d.producerReg ∧
    (d.joinGate g a).c0 = d.c0 ∧
    (d.joinGate g a).c1 = d.c1 ∧
    (d.joinGate g a).consumerReg = d.consumerReg ∧
    (d.joinGate g a).link = d.link := by
  unfold Device.joinGate
  repeat' split
  all_goals simp

@[simp] theorem Device.joinGate_dstate (g : Fin 8) (a : Slot) : (d.joinGate g a).dstate = d.dstate := (d.joinGate_frame g a).1
@[simp] theorem Device.joinGate_hreason (g : Fin 8) (a : Slot) : (d.joinGate g a).hreason = d.hreason := (d.joinGate_frame g a).2.1
@[simp] theorem Device.joinGate_rcause (g : Fin 8) (a : Slot) : (d.joinGate g a).rcause = d.rcause := (d.joinGate_frame g a).2.2.1
@[simp] theorem Device.joinGate_alert (g : Fin 8) (a : Slot) : (d.joinGate g a).alert = d.alert := (d.joinGate_frame g a).2.2.2.1
@[simp] theorem Device.joinGate_control (g : Fin 8) (a : Slot) : (d.joinGate g a).control = d.control := (d.joinGate_frame g a).2.2.2.2.1
@[simp] theorem Device.joinGate_bootLo (g : Fin 8) (a : Slot) : (d.joinGate g a).bootLo = d.bootLo := (d.joinGate_frame g a).2.2.2.2.2.1
@[simp] theorem Device.joinGate_bootHi (g : Fin 8) (a : Slot) : (d.joinGate g a).bootHi = d.bootHi := (d.joinGate_frame g a).2.2.2.2.2.2.1
@[simp] theorem Device.joinGate_bootCopy (g : Fin 8) (a : Slot) : (d.joinGate g a).bootCopy = d.bootCopy := (d.joinGate_frame g a).2.2.2.2.2.2.2.1
@[simp] theorem Device.joinGate_bootRead (g : Fin 8) (a : Slot) : (d.joinGate g a).bootRead = d.bootRead := (d.joinGate_frame g a).2.2.2.2.2.2.2.2.1
@[simp] theorem Device.joinGate_snapWrite (g : Fin 8) (a : Slot) : (d.joinGate g a).snapWrite = d.snapWrite := (d.joinGate_frame g a).2.2.2.2.2.2.2.2.2.1
@[simp] theorem Device.joinGate_now (g : Fin 8) (a : Slot) : (d.joinGate g a).now = d.now := (d.joinGate_frame g a).2.2.2.2.2.2.2.2.2.2.1
@[simp] theorem Device.joinGate_timing (g : Fin 8) (a : Slot) : (d.joinGate g a).timing = d.timing := (d.joinGate_frame g a).2.2.2.2.2.2.2.2.2.2.2.1
@[simp] theorem Device.joinGate_slots (g : Fin 8) (a : Slot) : (d.joinGate g a).slots = d.slots := (d.joinGate_frame g a).2.2.2.2.2.2.2.2.2.2.2.2.1
@[simp] theorem Device.joinGate_points (g : Fin 8) (a : Slot) : (d.joinGate g a).points = d.points := (d.joinGate_frame g a).2.2.2.2.2.2.2.2.2.2.2.2.2.1
@[simp] theorem Device.joinGate_inputs (g : Fin 8) (a : Slot) : (d.joinGate g a).inputs = d.inputs := (d.joinGate_frame g a).2.2.2.2.2.2.2.2.2.2.2.2.2.2.1
@[simp] theorem Device.joinGate_zones (g : Fin 8) (a : Slot) : (d.joinGate g a).zones = d.zones := (d.joinGate_frame g a).2.2.2.2.2.2.2.2.2.2.2.2.2.2.2.1
@[simp] theorem Device.joinGate_sup (g : Fin 8) (a : Slot) : (d.joinGate g a).sup = d.sup := (d.joinGate_frame g a).2.2.2.2.2.2.2.2.2.2.2.2.2.2.2.2.1
@[simp] theorem Device.joinGate_rings (g : Fin 8) (a : Slot) : (d.joinGate g a).rings = d.rings := (d.joinGate_frame g a).2.2.2.2.2.2.2.2.2.2.2.2.2.2.2.2.2.1
@[simp] theorem Device.joinGate_channel (g : Fin 8) (a : Slot) : (d.joinGate g a).channel = d.channel := (d.joinGate_frame g a).2.2.2.2.2.2.2.2.2.2.2.2.2.2.2.2.2.2.1
@[simp] theorem Device.joinGate_lastGrant (g : Fin 8) (a : Slot) : (d.joinGate g a).lastGrant = d.lastGrant := (d.joinGate_frame g a).2.2.2.2.2.2.2.2.2.2.2.2.2.2.2.2.2.2.2.1
@[simp] theorem Device.joinGate_producerReg (g : Fin 8) (a : Slot) : (d.joinGate g a).producerReg = d.producerReg := (d.joinGate_frame g a).2.2.2.2.2.2.2.2.2.2.2.2.2.2.2.2.2.2.2.2.1
@[simp] theorem Device.joinGate_c0 (g : Fin 8) (a : Slot) : (d.joinGate g a).c0 = d.c0 := (d.joinGate_frame g a).2.2.2.2.2.2.2.2.2.2.2.2.2.2.2.2.2.2.2.2.2.1
@[simp] theorem Device.joinGate_c1 (g : Fin 8) (a : Slot) : (d.joinGate g a).c1 = d.c1 := (d.joinGate_frame g a).2.2.2.2.2.2.2.2.2.2.2.2.2.2.2.2.2.2.2.2.2.2.1
@[simp] theorem Device.joinGate_consumerReg (g : Fin 8) (a : Slot) : (d.joinGate g a).consumerReg = d.consumerReg := (d.joinGate_frame g a).2.2.2.2.2.2.2.2.2.2.2.2.2.2.2.2.2.2.2.2.2.2.2.1
@[simp] theorem Device.joinGate_link (g : Fin 8) (a : Slot) : (d.joinGate g a).link = d.link := (d.joinGate_frame g a).2.2.2.2.2.2.2.2.2.2.2.2.2.2.2.2.2.2.2.2.2.2.2.2

/-! ### cancelClaim -/

/-- What `cancelClaim` leaves as it was. -/
theorem Device.cancelClaim_frame (p : PointId) (st : Status) :
    (d.cancelClaim p st).dstate = d.dstate ∧
    (d.cancelClaim p st).hreason = d.hreason ∧
    (d.cancelClaim p st).rcause = d.rcause ∧
    (d.cancelClaim p st).alert = d.alert ∧
    (d.cancelClaim p st).control = d.control ∧
    (d.cancelClaim p st).bootLo = d.bootLo ∧
    (d.cancelClaim p st).bootHi = d.bootHi ∧
    (d.cancelClaim p st).bootCopy = d.bootCopy ∧
    (d.cancelClaim p st).bootRead = d.bootRead ∧
    (d.cancelClaim p st).snapWrite = d.snapWrite ∧
    (d.cancelClaim p st).now = d.now ∧
    (d.cancelClaim p st).groups = d.groups ∧
    (d.cancelClaim p st).inputs = d.inputs ∧
    (d.cancelClaim p st).zones = d.zones ∧
    (d.cancelClaim p st).sup = d.sup ∧
    (d.cancelClaim p st).rings = d.rings ∧
    (d.cancelClaim p st).channel = d.channel ∧
    (d.cancelClaim p st).lastGrant = d.lastGrant ∧
    (d.cancelClaim p st).producerReg = d.producerReg ∧
    (d.cancelClaim p st).consumerReg = d.consumerReg ∧
    (d.cancelClaim p st).link = d.link := by
  unfold Device.cancelClaim
  repeat' split
  all_goals simp

@[simp] theorem Device.cancelClaim_dstate (p : PointId) (st : Status) : (d.cancelClaim p st).dstate = d.dstate := (d.cancelClaim_frame p st).1
@[simp] theorem Device.cancelClaim_hreason (p : PointId) (st : Status) : (d.cancelClaim p st).hreason = d.hreason := (d.cancelClaim_frame p st).2.1
@[simp] theorem Device.cancelClaim_rcause (p : PointId) (st : Status) : (d.cancelClaim p st).rcause = d.rcause := (d.cancelClaim_frame p st).2.2.1
@[simp] theorem Device.cancelClaim_alert (p : PointId) (st : Status) : (d.cancelClaim p st).alert = d.alert := (d.cancelClaim_frame p st).2.2.2.1
@[simp] theorem Device.cancelClaim_control (p : PointId) (st : Status) : (d.cancelClaim p st).control = d.control := (d.cancelClaim_frame p st).2.2.2.2.1
@[simp] theorem Device.cancelClaim_bootLo (p : PointId) (st : Status) : (d.cancelClaim p st).bootLo = d.bootLo := (d.cancelClaim_frame p st).2.2.2.2.2.1
@[simp] theorem Device.cancelClaim_bootHi (p : PointId) (st : Status) : (d.cancelClaim p st).bootHi = d.bootHi := (d.cancelClaim_frame p st).2.2.2.2.2.2.1
@[simp] theorem Device.cancelClaim_bootCopy (p : PointId) (st : Status) : (d.cancelClaim p st).bootCopy = d.bootCopy := (d.cancelClaim_frame p st).2.2.2.2.2.2.2.1
@[simp] theorem Device.cancelClaim_bootRead (p : PointId) (st : Status) : (d.cancelClaim p st).bootRead = d.bootRead := (d.cancelClaim_frame p st).2.2.2.2.2.2.2.2.1
@[simp] theorem Device.cancelClaim_snapWrite (p : PointId) (st : Status) : (d.cancelClaim p st).snapWrite = d.snapWrite := (d.cancelClaim_frame p st).2.2.2.2.2.2.2.2.2.1
@[simp] theorem Device.cancelClaim_now (p : PointId) (st : Status) : (d.cancelClaim p st).now = d.now := (d.cancelClaim_frame p st).2.2.2.2.2.2.2.2.2.2.1
@[simp] theorem Device.cancelClaim_groups (p : PointId) (st : Status) : (d.cancelClaim p st).groups = d.groups := (d.cancelClaim_frame p st).2.2.2.2.2.2.2.2.2.2.2.1
@[simp] theorem Device.cancelClaim_inputs (p : PointId) (st : Status) : (d.cancelClaim p st).inputs = d.inputs := (d.cancelClaim_frame p st).2.2.2.2.2.2.2.2.2.2.2.2.1
@[simp] theorem Device.cancelClaim_zones (p : PointId) (st : Status) : (d.cancelClaim p st).zones = d.zones := (d.cancelClaim_frame p st).2.2.2.2.2.2.2.2.2.2.2.2.2.1
@[simp] theorem Device.cancelClaim_sup (p : PointId) (st : Status) : (d.cancelClaim p st).sup = d.sup := (d.cancelClaim_frame p st).2.2.2.2.2.2.2.2.2.2.2.2.2.2.1
@[simp] theorem Device.cancelClaim_rings (p : PointId) (st : Status) : (d.cancelClaim p st).rings = d.rings := (d.cancelClaim_frame p st).2.2.2.2.2.2.2.2.2.2.2.2.2.2.2.1
@[simp] theorem Device.cancelClaim_channel (p : PointId) (st : Status) : (d.cancelClaim p st).channel = d.channel := (d.cancelClaim_frame p st).2.2.2.2.2.2.2.2.2.2.2.2.2.2.2.2.1
@[simp] theorem Device.cancelClaim_lastGrant (p : PointId) (st : Status) : (d.cancelClaim p st).lastGrant = d.lastGrant := (d.cancelClaim_frame p st).2.2.2.2.2.2.2.2.2.2.2.2.2.2.2.2.2.1
@[simp] theorem Device.cancelClaim_producerReg (p : PointId) (st : Status) : (d.cancelClaim p st).producerReg = d.producerReg := (d.cancelClaim_frame p st).2.2.2.2.2.2.2.2.2.2.2.2.2.2.2.2.2.2.1
@[simp] theorem Device.cancelClaim_consumerReg (p : PointId) (st : Status) : (d.cancelClaim p st).consumerReg = d.consumerReg := (d.cancelClaim_frame p st).2.2.2.2.2.2.2.2.2.2.2.2.2.2.2.2.2.2.2.1
@[simp] theorem Device.cancelClaim_link (p : PointId) (st : Status) : (d.cancelClaim p st).link = d.link := (d.cancelClaim_frame p st).2.2.2.2.2.2.2.2.2.2.2.2.2.2.2.2.2.2.2.2

/-! ### cancelEntry -/

/-- What `cancelEntry` leaves as it was. -/
theorem Device.cancelEntry_frame (a : Slot) (st : Status) :
    (d.cancelEntry a st).dstate = d.dstate ∧
    (d.cancelEntry a st).hreason = d.hreason ∧
    (d.cancelEntry a st).rcause = d.rcause ∧
    (d.cancelEntry a st).alert = d.alert ∧
    (d.cancelEntry a st).control = d.control ∧
    (d.cancelEntry a st).bootLo = d.bootLo ∧
    (d.cancelEntry a st).bootHi = d.bootHi ∧
    (d.cancelEntry a st).bootCopy = d.bootCopy ∧
    (d.cancelEntry a st).bootRead = d.bootRead ∧
    (d.cancelEntry a st).snapWrite = d.snapWrite ∧
    (d.cancelEntry a st).now = d.now ∧
    (d.cancelEntry a st).zones = d.zones ∧
    (d.cancelEntry a st).sup = d.sup ∧
    (d.cancelEntry a st).rings = d.rings ∧
    (d.cancelEntry a st).channel = d.channel ∧
    (d.cancelEntry a st).lastGrant = d.lastGrant ∧
    (d.cancelEntry a st).producerReg = d.producerReg ∧
    (d.cancelEntry a st).consumerReg = d.consumerReg ∧
    (d.cancelEntry a st).link = d.link := by
  unfold Device.cancelEntry
  repeat' split
  all_goals simp

@[simp] theorem Device.cancelEntry_dstate (a : Slot) (st : Status) : (d.cancelEntry a st).dstate = d.dstate := (d.cancelEntry_frame a st).1
@[simp] theorem Device.cancelEntry_hreason (a : Slot) (st : Status) : (d.cancelEntry a st).hreason = d.hreason := (d.cancelEntry_frame a st).2.1
@[simp] theorem Device.cancelEntry_rcause (a : Slot) (st : Status) : (d.cancelEntry a st).rcause = d.rcause := (d.cancelEntry_frame a st).2.2.1
@[simp] theorem Device.cancelEntry_alert (a : Slot) (st : Status) : (d.cancelEntry a st).alert = d.alert := (d.cancelEntry_frame a st).2.2.2.1
@[simp] theorem Device.cancelEntry_control (a : Slot) (st : Status) : (d.cancelEntry a st).control = d.control := (d.cancelEntry_frame a st).2.2.2.2.1
@[simp] theorem Device.cancelEntry_bootLo (a : Slot) (st : Status) : (d.cancelEntry a st).bootLo = d.bootLo := (d.cancelEntry_frame a st).2.2.2.2.2.1
@[simp] theorem Device.cancelEntry_bootHi (a : Slot) (st : Status) : (d.cancelEntry a st).bootHi = d.bootHi := (d.cancelEntry_frame a st).2.2.2.2.2.2.1
@[simp] theorem Device.cancelEntry_bootCopy (a : Slot) (st : Status) : (d.cancelEntry a st).bootCopy = d.bootCopy := (d.cancelEntry_frame a st).2.2.2.2.2.2.2.1
@[simp] theorem Device.cancelEntry_bootRead (a : Slot) (st : Status) : (d.cancelEntry a st).bootRead = d.bootRead := (d.cancelEntry_frame a st).2.2.2.2.2.2.2.2.1
@[simp] theorem Device.cancelEntry_snapWrite (a : Slot) (st : Status) : (d.cancelEntry a st).snapWrite = d.snapWrite := (d.cancelEntry_frame a st).2.2.2.2.2.2.2.2.2.1
@[simp] theorem Device.cancelEntry_now (a : Slot) (st : Status) : (d.cancelEntry a st).now = d.now := (d.cancelEntry_frame a st).2.2.2.2.2.2.2.2.2.2.1
@[simp] theorem Device.cancelEntry_zones (a : Slot) (st : Status) : (d.cancelEntry a st).zones = d.zones := (d.cancelEntry_frame a st).2.2.2.2.2.2.2.2.2.2.2.1
@[simp] theorem Device.cancelEntry_sup (a : Slot) (st : Status) : (d.cancelEntry a st).sup = d.sup := (d.cancelEntry_frame a st).2.2.2.2.2.2.2.2.2.2.2.2.1
@[simp] theorem Device.cancelEntry_rings (a : Slot) (st : Status) : (d.cancelEntry a st).rings = d.rings := (d.cancelEntry_frame a st).2.2.2.2.2.2.2.2.2.2.2.2.2.1
@[simp] theorem Device.cancelEntry_channel (a : Slot) (st : Status) : (d.cancelEntry a st).channel = d.channel := (d.cancelEntry_frame a st).2.2.2.2.2.2.2.2.2.2.2.2.2.2.1
@[simp] theorem Device.cancelEntry_lastGrant (a : Slot) (st : Status) : (d.cancelEntry a st).lastGrant = d.lastGrant := (d.cancelEntry_frame a st).2.2.2.2.2.2.2.2.2.2.2.2.2.2.2.1
@[simp] theorem Device.cancelEntry_producerReg (a : Slot) (st : Status) : (d.cancelEntry a st).producerReg = d.producerReg := (d.cancelEntry_frame a st).2.2.2.2.2.2.2.2.2.2.2.2.2.2.2.2.1
@[simp] theorem Device.cancelEntry_consumerReg (a : Slot) (st : Status) : (d.cancelEntry a st).consumerReg = d.consumerReg := (d.cancelEntry_frame a st).2.2.2.2.2.2.2.2.2.2.2.2.2.2.2.2.2.1
@[simp] theorem Device.cancelEntry_link (a : Slot) (st : Status) : (d.cancelEntry a st).link = d.link := (d.cancelEntry_frame a st).2.2.2.2.2.2.2.2.2.2.2.2.2.2.2.2.2.2

/-! ### startSupervision -/

/-- What `startSupervision` leaves as it was. -/
theorem Device.startSupervision_frame :
    (d.startSupervision).dstate = d.dstate ∧
    (d.startSupervision).hreason = d.hreason ∧
    (d.startSupervision).rcause = d.rcause ∧
    (d.startSupervision).alert = d.alert ∧
    (d.startSupervision).control = d.control ∧
    (d.startSupervision).bootLo = d.bootLo ∧
    (d.startSupervision).bootHi = d.bootHi ∧
    (d.startSupervision).bootCopy = d.bootCopy ∧
    (d.startSupervision).bootRead = d.bootRead ∧
    (d.startSupervision).snapWrite = d.snapWrite ∧
    (d.startSupervision).now = d.now ∧
    (d.startSupervision).timing = d.timing ∧
    (d.startSupervision).slots = d.slots ∧
    (d.startSupervision).points = d.points ∧
    (d.startSupervision).groups = d.groups ∧
    (d.startSupervision).inputs = d.inputs ∧
    (d.startSupervision).zones = d.zones ∧
    (d.startSupervision).rings = d.rings ∧
    (d.startSupervision).channel = d.channel ∧
    (d.startSupervision).lastGrant = d.lastGrant ∧
    (d.startSupervision).producerReg = d.producerReg ∧
    (d.startSupervision).c0 = d.c0 ∧
    (d.startSupervision).c1 = d.c1 ∧
    (d.startSupervision).consumerReg = d.consumerReg ∧
    (d.startSupervision).link = d.link := by
  unfold Device.startSupervision
  repeat' split
  all_goals simp

@[simp] theorem Device.startSupervision_dstate : (d.startSupervision).dstate = d.dstate := d.startSupervision_frame.1
@[simp] theorem Device.startSupervision_hreason : (d.startSupervision).hreason = d.hreason := d.startSupervision_frame.2.1
@[simp] theorem Device.startSupervision_rcause : (d.startSupervision).rcause = d.rcause := d.startSupervision_frame.2.2.1
@[simp] theorem Device.startSupervision_alert : (d.startSupervision).alert = d.alert := d.startSupervision_frame.2.2.2.1
@[simp] theorem Device.startSupervision_control : (d.startSupervision).control = d.control := d.startSupervision_frame.2.2.2.2.1
@[simp] theorem Device.startSupervision_bootLo : (d.startSupervision).bootLo = d.bootLo := d.startSupervision_frame.2.2.2.2.2.1
@[simp] theorem Device.startSupervision_bootHi : (d.startSupervision).bootHi = d.bootHi := d.startSupervision_frame.2.2.2.2.2.2.1
@[simp] theorem Device.startSupervision_bootCopy : (d.startSupervision).bootCopy = d.bootCopy := d.startSupervision_frame.2.2.2.2.2.2.2.1
@[simp] theorem Device.startSupervision_bootRead : (d.startSupervision).bootRead = d.bootRead := d.startSupervision_frame.2.2.2.2.2.2.2.2.1
@[simp] theorem Device.startSupervision_snapWrite : (d.startSupervision).snapWrite = d.snapWrite := d.startSupervision_frame.2.2.2.2.2.2.2.2.2.1
@[simp] theorem Device.startSupervision_now : (d.startSupervision).now = d.now := d.startSupervision_frame.2.2.2.2.2.2.2.2.2.2.1
@[simp] theorem Device.startSupervision_timing : (d.startSupervision).timing = d.timing := d.startSupervision_frame.2.2.2.2.2.2.2.2.2.2.2.1
@[simp] theorem Device.startSupervision_slots : (d.startSupervision).slots = d.slots := d.startSupervision_frame.2.2.2.2.2.2.2.2.2.2.2.2.1
@[simp] theorem Device.startSupervision_points : (d.startSupervision).points = d.points := d.startSupervision_frame.2.2.2.2.2.2.2.2.2.2.2.2.2.1
@[simp] theorem Device.startSupervision_groups : (d.startSupervision).groups = d.groups := d.startSupervision_frame.2.2.2.2.2.2.2.2.2.2.2.2.2.2.1
@[simp] theorem Device.startSupervision_inputs : (d.startSupervision).inputs = d.inputs := d.startSupervision_frame.2.2.2.2.2.2.2.2.2.2.2.2.2.2.2.1
@[simp] theorem Device.startSupervision_zones : (d.startSupervision).zones = d.zones := d.startSupervision_frame.2.2.2.2.2.2.2.2.2.2.2.2.2.2.2.2.1
@[simp] theorem Device.startSupervision_rings : (d.startSupervision).rings = d.rings := d.startSupervision_frame.2.2.2.2.2.2.2.2.2.2.2.2.2.2.2.2.2.1
@[simp] theorem Device.startSupervision_channel : (d.startSupervision).channel = d.channel := d.startSupervision_frame.2.2.2.2.2.2.2.2.2.2.2.2.2.2.2.2.2.2.1
@[simp] theorem Device.startSupervision_lastGrant : (d.startSupervision).lastGrant = d.lastGrant := d.startSupervision_frame.2.2.2.2.2.2.2.2.2.2.2.2.2.2.2.2.2.2.2.1
@[simp] theorem Device.startSupervision_producerReg : (d.startSupervision).producerReg = d.producerReg := d.startSupervision_frame.2.2.2.2.2.2.2.2.2.2.2.2.2.2.2.2.2.2.2.2.1
@[simp] theorem Device.startSupervision_c0 : (d.startSupervision).c0 = d.c0 := d.startSupervision_frame.2.2.2.2.2.2.2.2.2.2.2.2.2.2.2.2.2.2.2.2.2.1
@[simp] theorem Device.startSupervision_c1 : (d.startSupervision).c1 = d.c1 := d.startSupervision_frame.2.2.2.2.2.2.2.2.2.2.2.2.2.2.2.2.2.2.2.2.2.2.1
@[simp] theorem Device.startSupervision_consumerReg : (d.startSupervision).consumerReg = d.consumerReg := d.startSupervision_frame.2.2.2.2.2.2.2.2.2.2.2.2.2.2.2.2.2.2.2.2.2.2.2.1
@[simp] theorem Device.startSupervision_link : (d.startSupervision).link = d.link := d.startSupervision_frame.2.2.2.2.2.2.2.2.2.2.2.2.2.2.2.2.2.2.2.2.2.2.2.2

/-! ### addDeadline -/

/-- What `addDeadline` leaves as it was. -/
theorem Device.addDeadline_frame (a : Slot) (h : RawRecord) :
    (d.addDeadline a h).dstate = d.dstate ∧
    (d.addDeadline a h).hreason = d.hreason ∧
    (d.addDeadline a h).rcause = d.rcause ∧
    (d.addDeadline a h).alert = d.alert ∧
    (d.addDeadline a h).control = d.control ∧
    (d.addDeadline a h).bootLo = d.bootLo ∧
    (d.addDeadline a h).bootHi = d.bootHi ∧
    (d.addDeadline a h).bootCopy = d.bootCopy ∧
    (d.addDeadline a h).bootRead = d.bootRead ∧
    (d.addDeadline a h).snapWrite = d.snapWrite ∧
    (d.addDeadline a h).now = d.now ∧
    (d.addDeadline a h).slots = d.slots ∧
    (d.addDeadline a h).points = d.points ∧
    (d.addDeadline a h).groups = d.groups ∧
    (d.addDeadline a h).inputs = d.inputs ∧
    (d.addDeadline a h).zones = d.zones ∧
    (d.addDeadline a h).sup = d.sup ∧
    (d.addDeadline a h).rings = d.rings ∧
    (d.addDeadline a h).channel = d.channel ∧
    (d.addDeadline a h).lastGrant = d.lastGrant ∧
    (d.addDeadline a h).producerReg = d.producerReg ∧
    (d.addDeadline a h).c0 = d.c0 ∧
    (d.addDeadline a h).c1 = d.c1 ∧
    (d.addDeadline a h).consumerReg = d.consumerReg ∧
    (d.addDeadline a h).link = d.link := by
  unfold Device.addDeadline
  repeat' split
  all_goals simp

@[simp] theorem Device.addDeadline_dstate (a : Slot) (h : RawRecord) : (d.addDeadline a h).dstate = d.dstate := (d.addDeadline_frame a h).1
@[simp] theorem Device.addDeadline_hreason (a : Slot) (h : RawRecord) : (d.addDeadline a h).hreason = d.hreason := (d.addDeadline_frame a h).2.1
@[simp] theorem Device.addDeadline_rcause (a : Slot) (h : RawRecord) : (d.addDeadline a h).rcause = d.rcause := (d.addDeadline_frame a h).2.2.1
@[simp] theorem Device.addDeadline_alert (a : Slot) (h : RawRecord) : (d.addDeadline a h).alert = d.alert := (d.addDeadline_frame a h).2.2.2.1
@[simp] theorem Device.addDeadline_control (a : Slot) (h : RawRecord) : (d.addDeadline a h).control = d.control := (d.addDeadline_frame a h).2.2.2.2.1
@[simp] theorem Device.addDeadline_bootLo (a : Slot) (h : RawRecord) : (d.addDeadline a h).bootLo = d.bootLo := (d.addDeadline_frame a h).2.2.2.2.2.1
@[simp] theorem Device.addDeadline_bootHi (a : Slot) (h : RawRecord) : (d.addDeadline a h).bootHi = d.bootHi := (d.addDeadline_frame a h).2.2.2.2.2.2.1
@[simp] theorem Device.addDeadline_bootCopy (a : Slot) (h : RawRecord) : (d.addDeadline a h).bootCopy = d.bootCopy := (d.addDeadline_frame a h).2.2.2.2.2.2.2.1
@[simp] theorem Device.addDeadline_bootRead (a : Slot) (h : RawRecord) : (d.addDeadline a h).bootRead = d.bootRead := (d.addDeadline_frame a h).2.2.2.2.2.2.2.2.1
@[simp] theorem Device.addDeadline_snapWrite (a : Slot) (h : RawRecord) : (d.addDeadline a h).snapWrite = d.snapWrite := (d.addDeadline_frame a h).2.2.2.2.2.2.2.2.2.1
@[simp] theorem Device.addDeadline_now (a : Slot) (h : RawRecord) : (d.addDeadline a h).now = d.now := (d.addDeadline_frame a h).2.2.2.2.2.2.2.2.2.2.1
@[simp] theorem Device.addDeadline_slots (a : Slot) (h : RawRecord) : (d.addDeadline a h).slots = d.slots := (d.addDeadline_frame a h).2.2.2.2.2.2.2.2.2.2.2.1
@[simp] theorem Device.addDeadline_points (a : Slot) (h : RawRecord) : (d.addDeadline a h).points = d.points := (d.addDeadline_frame a h).2.2.2.2.2.2.2.2.2.2.2.2.1
@[simp] theorem Device.addDeadline_groups (a : Slot) (h : RawRecord) : (d.addDeadline a h).groups = d.groups := (d.addDeadline_frame a h).2.2.2.2.2.2.2.2.2.2.2.2.2.1
@[simp] theorem Device.addDeadline_inputs (a : Slot) (h : RawRecord) : (d.addDeadline a h).inputs = d.inputs := (d.addDeadline_frame a h).2.2.2.2.2.2.2.2.2.2.2.2.2.2.1
@[simp] theorem Device.addDeadline_zones (a : Slot) (h : RawRecord) : (d.addDeadline a h).zones = d.zones := (d.addDeadline_frame a h).2.2.2.2.2.2.2.2.2.2.2.2.2.2.2.1
@[simp] theorem Device.addDeadline_sup (a : Slot) (h : RawRecord) : (d.addDeadline a h).sup = d.sup := (d.addDeadline_frame a h).2.2.2.2.2.2.2.2.2.2.2.2.2.2.2.2.1
@[simp] theorem Device.addDeadline_rings (a : Slot) (h : RawRecord) : (d.addDeadline a h).rings = d.rings := (d.addDeadline_frame a h).2.2.2.2.2.2.2.2.2.2.2.2.2.2.2.2.2.1
@[simp] theorem Device.addDeadline_channel (a : Slot) (h : RawRecord) : (d.addDeadline a h).channel = d.channel := (d.addDeadline_frame a h).2.2.2.2.2.2.2.2.2.2.2.2.2.2.2.2.2.2.1
@[simp] theorem Device.addDeadline_lastGrant (a : Slot) (h : RawRecord) : (d.addDeadline a h).lastGrant = d.lastGrant := (d.addDeadline_frame a h).2.2.2.2.2.2.2.2.2.2.2.2.2.2.2.2.2.2.2.1
@[simp] theorem Device.addDeadline_producerReg (a : Slot) (h : RawRecord) : (d.addDeadline a h).producerReg = d.producerReg := (d.addDeadline_frame a h).2.2.2.2.2.2.2.2.2.2.2.2.2.2.2.2.2.2.2.2.1
@[simp] theorem Device.addDeadline_c0 (a : Slot) (h : RawRecord) : (d.addDeadline a h).c0 = d.c0 := (d.addDeadline_frame a h).2.2.2.2.2.2.2.2.2.2.2.2.2.2.2.2.2.2.2.2.2.1
@[simp] theorem Device.addDeadline_c1 (a : Slot) (h : RawRecord) : (d.addDeadline a h).c1 = d.c1 := (d.addDeadline_frame a h).2.2.2.2.2.2.2.2.2.2.2.2.2.2.2.2.2.2.2.2.2.2.1
@[simp] theorem Device.addDeadline_consumerReg (a : Slot) (h : RawRecord) : (d.addDeadline a h).consumerReg = d.consumerReg := (d.addDeadline_frame a h).2.2.2.2.2.2.2.2.2.2.2.2.2.2.2.2.2.2.2.2.2.2.2.1
@[simp] theorem Device.addDeadline_link (a : Slot) (h : RawRecord) : (d.addDeadline a h).link = d.link := (d.addDeadline_frame a h).2.2.2.2.2.2.2.2.2.2.2.2.2.2.2.2.2.2.2.2.2.2.2.2

/-! ### enterTriggerWait -/

/-- What `enterTriggerWait` leaves as it was. -/
theorem Device.enterTriggerWait_frame (a : Slot) (h : RawRecord) :
    (d.enterTriggerWait a h).dstate = d.dstate ∧
    (d.enterTriggerWait a h).hreason = d.hreason ∧
    (d.enterTriggerWait a h).rcause = d.rcause ∧
    (d.enterTriggerWait a h).alert = d.alert ∧
    (d.enterTriggerWait a h).control = d.control ∧
    (d.enterTriggerWait a h).bootLo = d.bootLo ∧
    (d.enterTriggerWait a h).bootHi = d.bootHi ∧
    (d.enterTriggerWait a h).bootCopy = d.bootCopy ∧
    (d.enterTriggerWait a h).bootRead = d.bootRead ∧
    (d.enterTriggerWait a h).snapWrite = d.snapWrite ∧
    (d.enterTriggerWait a h).now = d.now ∧
    (d.enterTriggerWait a h).timing = d.timing ∧
    (d.enterTriggerWait a h).points = d.points ∧
    (d.enterTriggerWait a h).groups = d.groups ∧
    (d.enterTriggerWait a h).zones = d.zones ∧
    (d.enterTriggerWait a h).sup = d.sup ∧
    (d.enterTriggerWait a h).rings = d.rings ∧
    (d.enterTriggerWait a h).channel = d.channel ∧
    (d.enterTriggerWait a h).lastGrant = d.lastGrant ∧
    (d.enterTriggerWait a h).producerReg = d.producerReg ∧
    (d.enterTriggerWait a h).c0 = d.c0 ∧
    (d.enterTriggerWait a h).c1 = d.c1 ∧
    (d.enterTriggerWait a h).consumerReg = d.consumerReg ∧
    (d.enterTriggerWait a h).link = d.link := by
  unfold Device.enterTriggerWait
  simp

@[simp] theorem Device.enterTriggerWait_dstate (a : Slot) (h : RawRecord) : (d.enterTriggerWait a h).dstate = d.dstate := (d.enterTriggerWait_frame a h).1
@[simp] theorem Device.enterTriggerWait_hreason (a : Slot) (h : RawRecord) : (d.enterTriggerWait a h).hreason = d.hreason := (d.enterTriggerWait_frame a h).2.1
@[simp] theorem Device.enterTriggerWait_rcause (a : Slot) (h : RawRecord) : (d.enterTriggerWait a h).rcause = d.rcause := (d.enterTriggerWait_frame a h).2.2.1
@[simp] theorem Device.enterTriggerWait_alert (a : Slot) (h : RawRecord) : (d.enterTriggerWait a h).alert = d.alert := (d.enterTriggerWait_frame a h).2.2.2.1
@[simp] theorem Device.enterTriggerWait_control (a : Slot) (h : RawRecord) : (d.enterTriggerWait a h).control = d.control := (d.enterTriggerWait_frame a h).2.2.2.2.1
@[simp] theorem Device.enterTriggerWait_bootLo (a : Slot) (h : RawRecord) : (d.enterTriggerWait a h).bootLo = d.bootLo := (d.enterTriggerWait_frame a h).2.2.2.2.2.1
@[simp] theorem Device.enterTriggerWait_bootHi (a : Slot) (h : RawRecord) : (d.enterTriggerWait a h).bootHi = d.bootHi := (d.enterTriggerWait_frame a h).2.2.2.2.2.2.1
@[simp] theorem Device.enterTriggerWait_bootCopy (a : Slot) (h : RawRecord) : (d.enterTriggerWait a h).bootCopy = d.bootCopy := (d.enterTriggerWait_frame a h).2.2.2.2.2.2.2.1
@[simp] theorem Device.enterTriggerWait_bootRead (a : Slot) (h : RawRecord) : (d.enterTriggerWait a h).bootRead = d.bootRead := (d.enterTriggerWait_frame a h).2.2.2.2.2.2.2.2.1
@[simp] theorem Device.enterTriggerWait_snapWrite (a : Slot) (h : RawRecord) : (d.enterTriggerWait a h).snapWrite = d.snapWrite := (d.enterTriggerWait_frame a h).2.2.2.2.2.2.2.2.2.1
@[simp] theorem Device.enterTriggerWait_now (a : Slot) (h : RawRecord) : (d.enterTriggerWait a h).now = d.now := (d.enterTriggerWait_frame a h).2.2.2.2.2.2.2.2.2.2.1
@[simp] theorem Device.enterTriggerWait_timing (a : Slot) (h : RawRecord) : (d.enterTriggerWait a h).timing = d.timing := (d.enterTriggerWait_frame a h).2.2.2.2.2.2.2.2.2.2.2.1
@[simp] theorem Device.enterTriggerWait_points (a : Slot) (h : RawRecord) : (d.enterTriggerWait a h).points = d.points := (d.enterTriggerWait_frame a h).2.2.2.2.2.2.2.2.2.2.2.2.1
@[simp] theorem Device.enterTriggerWait_groups (a : Slot) (h : RawRecord) : (d.enterTriggerWait a h).groups = d.groups := (d.enterTriggerWait_frame a h).2.2.2.2.2.2.2.2.2.2.2.2.2.1
@[simp] theorem Device.enterTriggerWait_zones (a : Slot) (h : RawRecord) : (d.enterTriggerWait a h).zones = d.zones := (d.enterTriggerWait_frame a h).2.2.2.2.2.2.2.2.2.2.2.2.2.2.1
@[simp] theorem Device.enterTriggerWait_sup (a : Slot) (h : RawRecord) : (d.enterTriggerWait a h).sup = d.sup := (d.enterTriggerWait_frame a h).2.2.2.2.2.2.2.2.2.2.2.2.2.2.2.1
@[simp] theorem Device.enterTriggerWait_rings (a : Slot) (h : RawRecord) : (d.enterTriggerWait a h).rings = d.rings := (d.enterTriggerWait_frame a h).2.2.2.2.2.2.2.2.2.2.2.2.2.2.2.2.1
@[simp] theorem Device.enterTriggerWait_channel (a : Slot) (h : RawRecord) : (d.enterTriggerWait a h).channel = d.channel := (d.enterTriggerWait_frame a h).2.2.2.2.2.2.2.2.2.2.2.2.2.2.2.2.2.1
@[simp] theorem Device.enterTriggerWait_lastGrant (a : Slot) (h : RawRecord) : (d.enterTriggerWait a h).lastGrant = d.lastGrant := (d.enterTriggerWait_frame a h).2.2.2.2.2.2.2.2.2.2.2.2.2.2.2.2.2.2.1
@[simp] theorem Device.enterTriggerWait_producerReg (a : Slot) (h : RawRecord) : (d.enterTriggerWait a h).producerReg = d.producerReg := (d.enterTriggerWait_frame a h).2.2.2.2.2.2.2.2.2.2.2.2.2.2.2.2.2.2.2.1
@[simp] theorem Device.enterTriggerWait_c0 (a : Slot) (h : RawRecord) : (d.enterTriggerWait a h).c0 = d.c0 := (d.enterTriggerWait_frame a h).2.2.2.2.2.2.2.2.2.2.2.2.2.2.2.2.2.2.2.2.1
@[simp] theorem Device.enterTriggerWait_c1 (a : Slot) (h : RawRecord) : (d.enterTriggerWait a h).c1 = d.c1 := (d.enterTriggerWait_frame a h).2.2.2.2.2.2.2.2.2.2.2.2.2.2.2.2.2.2.2.2.2.1
@[simp] theorem Device.enterTriggerWait_consumerReg (a : Slot) (h : RawRecord) : (d.enterTriggerWait a h).consumerReg = d.consumerReg := (d.enterTriggerWait_frame a h).2.2.2.2.2.2.2.2.2.2.2.2.2.2.2.2.2.2.2.2.2.2.1
@[simp] theorem Device.enterTriggerWait_link (a : Slot) (h : RawRecord) : (d.enterTriggerWait a h).link = d.link := (d.enterTriggerWait_frame a h).2.2.2.2.2.2.2.2.2.2.2.2.2.2.2.2.2.2.2.2.2.2.2

/-! ### beginTimed -/

/-- What `beginTimed` leaves as it was. -/
theorem Device.beginTimed_frame (a : Slot) (e : Entry) (b : Option Blink) :
    (d.beginTimed a e b).dstate = d.dstate ∧
    (d.beginTimed a e b).hreason = d.hreason ∧
    (d.beginTimed a e b).rcause = d.rcause ∧
    (d.beginTimed a e b).alert = d.alert ∧
    (d.beginTimed a e b).control = d.control ∧
    (d.beginTimed a e b).bootLo = d.bootLo ∧
    (d.beginTimed a e b).bootHi = d.bootHi ∧
    (d.beginTimed a e b).bootCopy = d.bootCopy ∧
    (d.beginTimed a e b).bootRead = d.bootRead ∧
    (d.beginTimed a e b).snapWrite = d.snapWrite ∧
    (d.beginTimed a e b).now = d.now ∧
    (d.beginTimed a e b).groups = d.groups ∧
    (d.beginTimed a e b).inputs = d.inputs ∧
    (d.beginTimed a e b).zones = d.zones ∧
    (d.beginTimed a e b).sup = d.sup ∧
    (d.beginTimed a e b).rings = d.rings ∧
    (d.beginTimed a e b).channel = d.channel ∧
    (d.beginTimed a e b).lastGrant = d.lastGrant ∧
    (d.beginTimed a e b).producerReg = d.producerReg ∧
    (d.beginTimed a e b).c0 = d.c0 ∧
    (d.beginTimed a e b).c1 = d.c1 ∧
    (d.beginTimed a e b).consumerReg = d.consumerReg ∧
    (d.beginTimed a e b).link = d.link := by
  unfold Device.beginTimed
  simp

@[simp] theorem Device.beginTimed_dstate (a : Slot) (e : Entry) (b : Option Blink) : (d.beginTimed a e b).dstate = d.dstate := (d.beginTimed_frame a e b).1
@[simp] theorem Device.beginTimed_hreason (a : Slot) (e : Entry) (b : Option Blink) : (d.beginTimed a e b).hreason = d.hreason := (d.beginTimed_frame a e b).2.1
@[simp] theorem Device.beginTimed_rcause (a : Slot) (e : Entry) (b : Option Blink) : (d.beginTimed a e b).rcause = d.rcause := (d.beginTimed_frame a e b).2.2.1
@[simp] theorem Device.beginTimed_alert (a : Slot) (e : Entry) (b : Option Blink) : (d.beginTimed a e b).alert = d.alert := (d.beginTimed_frame a e b).2.2.2.1
@[simp] theorem Device.beginTimed_control (a : Slot) (e : Entry) (b : Option Blink) : (d.beginTimed a e b).control = d.control := (d.beginTimed_frame a e b).2.2.2.2.1
@[simp] theorem Device.beginTimed_bootLo (a : Slot) (e : Entry) (b : Option Blink) : (d.beginTimed a e b).bootLo = d.bootLo := (d.beginTimed_frame a e b).2.2.2.2.2.1
@[simp] theorem Device.beginTimed_bootHi (a : Slot) (e : Entry) (b : Option Blink) : (d.beginTimed a e b).bootHi = d.bootHi := (d.beginTimed_frame a e b).2.2.2.2.2.2.1
@[simp] theorem Device.beginTimed_bootCopy (a : Slot) (e : Entry) (b : Option Blink) : (d.beginTimed a e b).bootCopy = d.bootCopy := (d.beginTimed_frame a e b).2.2.2.2.2.2.2.1
@[simp] theorem Device.beginTimed_bootRead (a : Slot) (e : Entry) (b : Option Blink) : (d.beginTimed a e b).bootRead = d.bootRead := (d.beginTimed_frame a e b).2.2.2.2.2.2.2.2.1
@[simp] theorem Device.beginTimed_snapWrite (a : Slot) (e : Entry) (b : Option Blink) : (d.beginTimed a e b).snapWrite = d.snapWrite := (d.beginTimed_frame a e b).2.2.2.2.2.2.2.2.2.1
@[simp] theorem Device.beginTimed_now (a : Slot) (e : Entry) (b : Option Blink) : (d.beginTimed a e b).now = d.now := (d.beginTimed_frame a e b).2.2.2.2.2.2.2.2.2.2.1
@[simp] theorem Device.beginTimed_groups (a : Slot) (e : Entry) (b : Option Blink) : (d.beginTimed a e b).groups = d.groups := (d.beginTimed_frame a e b).2.2.2.2.2.2.2.2.2.2.2.1
@[simp] theorem Device.beginTimed_inputs (a : Slot) (e : Entry) (b : Option Blink) : (d.beginTimed a e b).inputs = d.inputs := (d.beginTimed_frame a e b).2.2.2.2.2.2.2.2.2.2.2.2.1
@[simp] theorem Device.beginTimed_zones (a : Slot) (e : Entry) (b : Option Blink) : (d.beginTimed a e b).zones = d.zones := (d.beginTimed_frame a e b).2.2.2.2.2.2.2.2.2.2.2.2.2.1
@[simp] theorem Device.beginTimed_sup (a : Slot) (e : Entry) (b : Option Blink) : (d.beginTimed a e b).sup = d.sup := (d.beginTimed_frame a e b).2.2.2.2.2.2.2.2.2.2.2.2.2.2.1
@[simp] theorem Device.beginTimed_rings (a : Slot) (e : Entry) (b : Option Blink) : (d.beginTimed a e b).rings = d.rings := (d.beginTimed_frame a e b).2.2.2.2.2.2.2.2.2.2.2.2.2.2.2.1
@[simp] theorem Device.beginTimed_channel (a : Slot) (e : Entry) (b : Option Blink) : (d.beginTimed a e b).channel = d.channel := (d.beginTimed_frame a e b).2.2.2.2.2.2.2.2.2.2.2.2.2.2.2.2.1
@[simp] theorem Device.beginTimed_lastGrant (a : Slot) (e : Entry) (b : Option Blink) : (d.beginTimed a e b).lastGrant = d.lastGrant := (d.beginTimed_frame a e b).2.2.2.2.2.2.2.2.2.2.2.2.2.2.2.2.2.1
@[simp] theorem Device.beginTimed_producerReg (a : Slot) (e : Entry) (b : Option Blink) : (d.beginTimed a e b).producerReg = d.producerReg := (d.beginTimed_frame a e b).2.2.2.2.2.2.2.2.2.2.2.2.2.2.2.2.2.2.1
@[simp] theorem Device.beginTimed_c0 (a : Slot) (e : Entry) (b : Option Blink) : (d.beginTimed a e b).c0 = d.c0 := (d.beginTimed_frame a e b).2.2.2.2.2.2.2.2.2.2.2.2.2.2.2.2.2.2.2.1
@[simp] theorem Device.beginTimed_c1 (a : Slot) (e : Entry) (b : Option Blink) : (d.beginTimed a e b).c1 = d.c1 := (d.beginTimed_frame a e b).2.2.2.2.2.2.2.2.2.2.2.2.2.2.2.2.2.2.2.2.1
@[simp] theorem Device.beginTimed_consumerReg (a : Slot) (e : Entry) (b : Option Blink) : (d.beginTimed a e b).consumerReg = d.consumerReg := (d.beginTimed_frame a e b).2.2.2.2.2.2.2.2.2.2.2.2.2.2.2.2.2.2.2.2.2.1
@[simp] theorem Device.beginTimed_link (a : Slot) (e : Entry) (b : Option Blink) : (d.beginTimed a e b).link = d.link := (d.beginTimed_frame a e b).2.2.2.2.2.2.2.2.2.2.2.2.2.2.2.2.2.2.2.2.2.2

/-! ### effect -/

/-- What `effect` leaves as it was. -/
theorem Device.effect_frame (a : Slot) (e : Entry) :
    (d.effect a e).dstate = d.dstate ∧
    (d.effect a e).hreason = d.hreason ∧
    (d.effect a e).rcause = d.rcause ∧
    (d.effect a e).alert = d.alert ∧
    (d.effect a e).control = d.control ∧
    (d.effect a e).bootLo = d.bootLo ∧
    (d.effect a e).bootHi = d.bootHi ∧
    (d.effect a e).bootCopy = d.bootCopy ∧
    (d.effect a e).bootRead = d.bootRead ∧
    (d.effect a e).snapWrite = d.snapWrite ∧
    (d.effect a e).now = d.now ∧
    (d.effect a e).groups = d.groups ∧
    (d.effect a e).inputs = d.inputs ∧
    (d.effect a e).zones = d.zones ∧
    (d.effect a e).sup = d.sup ∧
    (d.effect a e).rings = d.rings ∧
    (d.effect a e).channel = d.channel ∧
    (d.effect a e).lastGrant = d.lastGrant ∧
    (d.effect a e).producerReg = d.producerReg ∧
    (d.effect a e).consumerReg = d.consumerReg ∧
    (d.effect a e).link = d.link := by
  unfold Device.effect
  repeat' split
  all_goals simp [Device.effectSet, Device.effectClear, Device.effectPulse, Device.effectDelay, Device.effectBlink]

@[simp] theorem Device.effect_dstate (a : Slot) (e : Entry) : (d.effect a e).dstate = d.dstate := (d.effect_frame a e).1
@[simp] theorem Device.effect_hreason (a : Slot) (e : Entry) : (d.effect a e).hreason = d.hreason := (d.effect_frame a e).2.1
@[simp] theorem Device.effect_rcause (a : Slot) (e : Entry) : (d.effect a e).rcause = d.rcause := (d.effect_frame a e).2.2.1
@[simp] theorem Device.effect_alert (a : Slot) (e : Entry) : (d.effect a e).alert = d.alert := (d.effect_frame a e).2.2.2.1
@[simp] theorem Device.effect_control (a : Slot) (e : Entry) : (d.effect a e).control = d.control := (d.effect_frame a e).2.2.2.2.1
@[simp] theorem Device.effect_bootLo (a : Slot) (e : Entry) : (d.effect a e).bootLo = d.bootLo := (d.effect_frame a e).2.2.2.2.2.1
@[simp] theorem Device.effect_bootHi (a : Slot) (e : Entry) : (d.effect a e).bootHi = d.bootHi := (d.effect_frame a e).2.2.2.2.2.2.1
@[simp] theorem Device.effect_bootCopy (a : Slot) (e : Entry) : (d.effect a e).bootCopy = d.bootCopy := (d.effect_frame a e).2.2.2.2.2.2.2.1
@[simp] theorem Device.effect_bootRead (a : Slot) (e : Entry) : (d.effect a e).bootRead = d.bootRead := (d.effect_frame a e).2.2.2.2.2.2.2.2.1
@[simp] theorem Device.effect_snapWrite (a : Slot) (e : Entry) : (d.effect a e).snapWrite = d.snapWrite := (d.effect_frame a e).2.2.2.2.2.2.2.2.2.1
@[simp] theorem Device.effect_now (a : Slot) (e : Entry) : (d.effect a e).now = d.now := (d.effect_frame a e).2.2.2.2.2.2.2.2.2.2.1
@[simp] theorem Device.effect_groups (a : Slot) (e : Entry) : (d.effect a e).groups = d.groups := (d.effect_frame a e).2.2.2.2.2.2.2.2.2.2.2.1
@[simp] theorem Device.effect_inputs (a : Slot) (e : Entry) : (d.effect a e).inputs = d.inputs := (d.effect_frame a e).2.2.2.2.2.2.2.2.2.2.2.2.1
@[simp] theorem Device.effect_zones (a : Slot) (e : Entry) : (d.effect a e).zones = d.zones := (d.effect_frame a e).2.2.2.2.2.2.2.2.2.2.2.2.2.1
@[simp] theorem Device.effect_sup (a : Slot) (e : Entry) : (d.effect a e).sup = d.sup := (d.effect_frame a e).2.2.2.2.2.2.2.2.2.2.2.2.2.2.1
@[simp] theorem Device.effect_rings (a : Slot) (e : Entry) : (d.effect a e).rings = d.rings := (d.effect_frame a e).2.2.2.2.2.2.2.2.2.2.2.2.2.2.2.1
@[simp] theorem Device.effect_channel (a : Slot) (e : Entry) : (d.effect a e).channel = d.channel := (d.effect_frame a e).2.2.2.2.2.2.2.2.2.2.2.2.2.2.2.2.1
@[simp] theorem Device.effect_lastGrant (a : Slot) (e : Entry) : (d.effect a e).lastGrant = d.lastGrant := (d.effect_frame a e).2.2.2.2.2.2.2.2.2.2.2.2.2.2.2.2.2.1
@[simp] theorem Device.effect_producerReg (a : Slot) (e : Entry) : (d.effect a e).producerReg = d.producerReg := (d.effect_frame a e).2.2.2.2.2.2.2.2.2.2.2.2.2.2.2.2.2.2.1
@[simp] theorem Device.effect_consumerReg (a : Slot) (e : Entry) : (d.effect a e).consumerReg = d.consumerReg := (d.effect_frame a e).2.2.2.2.2.2.2.2.2.2.2.2.2.2.2.2.2.2.2.1
@[simp] theorem Device.effect_link (a : Slot) (e : Entry) : (d.effect a e).link = d.link := (d.effect_frame a e).2.2.2.2.2.2.2.2.2.2.2.2.2.2.2.2.2.2.2.2

/-! ### claimCheck -/

/-- What `claimCheck` leaves as it was. -/
theorem Device.claimCheck_frame (a : Slot) (e : Entry) :
    (d.claimCheck a e).dstate = d.dstate ∧
    (d.claimCheck a e).hreason = d.hreason ∧
    (d.claimCheck a e).rcause = d.rcause ∧
    (d.claimCheck a e).alert = d.alert ∧
    (d.claimCheck a e).control = d.control ∧
    (d.claimCheck a e).bootLo = d.bootLo ∧
    (d.claimCheck a e).bootHi = d.bootHi ∧
    (d.claimCheck a e).bootCopy = d.bootCopy ∧
    (d.claimCheck a e).bootRead = d.bootRead ∧
    (d.claimCheck a e).snapWrite = d.snapWrite ∧
    (d.claimCheck a e).now = d.now ∧
    (d.claimCheck a e).groups = d.groups ∧
    (d.claimCheck a e).inputs = d.inputs ∧
    (d.claimCheck a e).zones = d.zones ∧
    (d.claimCheck a e).sup = d.sup ∧
    (d.claimCheck a e).rings = d.rings ∧
    (d.claimCheck a e).channel = d.channel ∧
    (d.claimCheck a e).lastGrant = d.lastGrant ∧
    (d.claimCheck a e).producerReg = d.producerReg ∧
    (d.claimCheck a e).consumerReg = d.consumerReg ∧
    (d.claimCheck a e).link = d.link := by
  unfold Device.claimCheck
  repeat' split
  all_goals simp

@[simp] theorem Device.claimCheck_dstate (a : Slot) (e : Entry) : (d.claimCheck a e).dstate = d.dstate := (d.claimCheck_frame a e).1
@[simp] theorem Device.claimCheck_hreason (a : Slot) (e : Entry) : (d.claimCheck a e).hreason = d.hreason := (d.claimCheck_frame a e).2.1
@[simp] theorem Device.claimCheck_rcause (a : Slot) (e : Entry) : (d.claimCheck a e).rcause = d.rcause := (d.claimCheck_frame a e).2.2.1
@[simp] theorem Device.claimCheck_alert (a : Slot) (e : Entry) : (d.claimCheck a e).alert = d.alert := (d.claimCheck_frame a e).2.2.2.1
@[simp] theorem Device.claimCheck_control (a : Slot) (e : Entry) : (d.claimCheck a e).control = d.control := (d.claimCheck_frame a e).2.2.2.2.1
@[simp] theorem Device.claimCheck_bootLo (a : Slot) (e : Entry) : (d.claimCheck a e).bootLo = d.bootLo := (d.claimCheck_frame a e).2.2.2.2.2.1
@[simp] theorem Device.claimCheck_bootHi (a : Slot) (e : Entry) : (d.claimCheck a e).bootHi = d.bootHi := (d.claimCheck_frame a e).2.2.2.2.2.2.1
@[simp] theorem Device.claimCheck_bootCopy (a : Slot) (e : Entry) : (d.claimCheck a e).bootCopy = d.bootCopy := (d.claimCheck_frame a e).2.2.2.2.2.2.2.1
@[simp] theorem Device.claimCheck_bootRead (a : Slot) (e : Entry) : (d.claimCheck a e).bootRead = d.bootRead := (d.claimCheck_frame a e).2.2.2.2.2.2.2.2.1
@[simp] theorem Device.claimCheck_snapWrite (a : Slot) (e : Entry) : (d.claimCheck a e).snapWrite = d.snapWrite := (d.claimCheck_frame a e).2.2.2.2.2.2.2.2.2.1
@[simp] theorem Device.claimCheck_now (a : Slot) (e : Entry) : (d.claimCheck a e).now = d.now := (d.claimCheck_frame a e).2.2.2.2.2.2.2.2.2.2.1
@[simp] theorem Device.claimCheck_groups (a : Slot) (e : Entry) : (d.claimCheck a e).groups = d.groups := (d.claimCheck_frame a e).2.2.2.2.2.2.2.2.2.2.2.1
@[simp] theorem Device.claimCheck_inputs (a : Slot) (e : Entry) : (d.claimCheck a e).inputs = d.inputs := (d.claimCheck_frame a e).2.2.2.2.2.2.2.2.2.2.2.2.1
@[simp] theorem Device.claimCheck_zones (a : Slot) (e : Entry) : (d.claimCheck a e).zones = d.zones := (d.claimCheck_frame a e).2.2.2.2.2.2.2.2.2.2.2.2.2.1
@[simp] theorem Device.claimCheck_sup (a : Slot) (e : Entry) : (d.claimCheck a e).sup = d.sup := (d.claimCheck_frame a e).2.2.2.2.2.2.2.2.2.2.2.2.2.2.1
@[simp] theorem Device.claimCheck_rings (a : Slot) (e : Entry) : (d.claimCheck a e).rings = d.rings := (d.claimCheck_frame a e).2.2.2.2.2.2.2.2.2.2.2.2.2.2.2.1
@[simp] theorem Device.claimCheck_channel (a : Slot) (e : Entry) : (d.claimCheck a e).channel = d.channel := (d.claimCheck_frame a e).2.2.2.2.2.2.2.2.2.2.2.2.2.2.2.2.1
@[simp] theorem Device.claimCheck_lastGrant (a : Slot) (e : Entry) : (d.claimCheck a e).lastGrant = d.lastGrant := (d.claimCheck_frame a e).2.2.2.2.2.2.2.2.2.2.2.2.2.2.2.2.2.1
@[simp] theorem Device.claimCheck_producerReg (a : Slot) (e : Entry) : (d.claimCheck a e).producerReg = d.producerReg := (d.claimCheck_frame a e).2.2.2.2.2.2.2.2.2.2.2.2.2.2.2.2.2.2.1
@[simp] theorem Device.claimCheck_consumerReg (a : Slot) (e : Entry) : (d.claimCheck a e).consumerReg = d.consumerReg := (d.claimCheck_frame a e).2.2.2.2.2.2.2.2.2.2.2.2.2.2.2.2.2.2.2.1
@[simp] theorem Device.claimCheck_link (a : Slot) (e : Entry) : (d.claimCheck a e).link = d.link := (d.claimCheck_frame a e).2.2.2.2.2.2.2.2.2.2.2.2.2.2.2.2.2.2.2.2

/-! ### gateCheck -/

/-- What `gateCheck` leaves as it was. -/
theorem Device.gateCheck_frame (a : Slot) (e : Entry) :
    (d.gateCheck a e).dstate = d.dstate ∧
    (d.gateCheck a e).hreason = d.hreason ∧
    (d.gateCheck a e).rcause = d.rcause ∧
    (d.gateCheck a e).alert = d.alert ∧
    (d.gateCheck a e).control = d.control ∧
    (d.gateCheck a e).bootLo = d.bootLo ∧
    (d.gateCheck a e).bootHi = d.bootHi ∧
    (d.gateCheck a e).bootCopy = d.bootCopy ∧
    (d.gateCheck a e).bootRead = d.bootRead ∧
    (d.gateCheck a e).snapWrite = d.snapWrite ∧
    (d.gateCheck a e).now = d.now ∧
    (d.gateCheck a e).inputs = d.inputs ∧
    (d.gateCheck a e).zones = d.zones ∧
    (d.gateCheck a e).sup = d.sup ∧
    (d.gateCheck a e).rings = d.rings ∧
    (d.gateCheck a e).channel = d.channel ∧
    (d.gateCheck a e).lastGrant = d.lastGrant ∧
    (d.gateCheck a e).producerReg = d.producerReg ∧
    (d.gateCheck a e).consumerReg = d.consumerReg ∧
    (d.gateCheck a e).link = d.link := by
  unfold Device.gateCheck
  repeat' split
  all_goals simp

@[simp] theorem Device.gateCheck_dstate (a : Slot) (e : Entry) : (d.gateCheck a e).dstate = d.dstate := (d.gateCheck_frame a e).1
@[simp] theorem Device.gateCheck_hreason (a : Slot) (e : Entry) : (d.gateCheck a e).hreason = d.hreason := (d.gateCheck_frame a e).2.1
@[simp] theorem Device.gateCheck_rcause (a : Slot) (e : Entry) : (d.gateCheck a e).rcause = d.rcause := (d.gateCheck_frame a e).2.2.1
@[simp] theorem Device.gateCheck_alert (a : Slot) (e : Entry) : (d.gateCheck a e).alert = d.alert := (d.gateCheck_frame a e).2.2.2.1
@[simp] theorem Device.gateCheck_control (a : Slot) (e : Entry) : (d.gateCheck a e).control = d.control := (d.gateCheck_frame a e).2.2.2.2.1
@[simp] theorem Device.gateCheck_bootLo (a : Slot) (e : Entry) : (d.gateCheck a e).bootLo = d.bootLo := (d.gateCheck_frame a e).2.2.2.2.2.1
@[simp] theorem Device.gateCheck_bootHi (a : Slot) (e : Entry) : (d.gateCheck a e).bootHi = d.bootHi := (d.gateCheck_frame a e).2.2.2.2.2.2.1
@[simp] theorem Device.gateCheck_bootCopy (a : Slot) (e : Entry) : (d.gateCheck a e).bootCopy = d.bootCopy := (d.gateCheck_frame a e).2.2.2.2.2.2.2.1
@[simp] theorem Device.gateCheck_bootRead (a : Slot) (e : Entry) : (d.gateCheck a e).bootRead = d.bootRead := (d.gateCheck_frame a e).2.2.2.2.2.2.2.2.1
@[simp] theorem Device.gateCheck_snapWrite (a : Slot) (e : Entry) : (d.gateCheck a e).snapWrite = d.snapWrite := (d.gateCheck_frame a e).2.2.2.2.2.2.2.2.2.1
@[simp] theorem Device.gateCheck_now (a : Slot) (e : Entry) : (d.gateCheck a e).now = d.now := (d.gateCheck_frame a e).2.2.2.2.2.2.2.2.2.2.1
@[simp] theorem Device.gateCheck_inputs (a : Slot) (e : Entry) : (d.gateCheck a e).inputs = d.inputs := (d.gateCheck_frame a e).2.2.2.2.2.2.2.2.2.2.2.1
@[simp] theorem Device.gateCheck_zones (a : Slot) (e : Entry) : (d.gateCheck a e).zones = d.zones := (d.gateCheck_frame a e).2.2.2.2.2.2.2.2.2.2.2.2.1
@[simp] theorem Device.gateCheck_sup (a : Slot) (e : Entry) : (d.gateCheck a e).sup = d.sup := (d.gateCheck_frame a e).2.2.2.2.2.2.2.2.2.2.2.2.2.1
@[simp] theorem Device.gateCheck_rings (a : Slot) (e : Entry) : (d.gateCheck a e).rings = d.rings := (d.gateCheck_frame a e).2.2.2.2.2.2.2.2.2.2.2.2.2.2.1
@[simp] theorem Device.gateCheck_channel (a : Slot) (e : Entry) : (d.gateCheck a e).channel = d.channel := (d.gateCheck_frame a e).2.2.2.2.2.2.2.2.2.2.2.2.2.2.2.1
@[simp] theorem Device.gateCheck_lastGrant (a : Slot) (e : Entry) : (d.gateCheck a e).lastGrant = d.lastGrant := (d.gateCheck_frame a e).2.2.2.2.2.2.2.2.2.2.2.2.2.2.2.2.1
@[simp] theorem Device.gateCheck_producerReg (a : Slot) (e : Entry) : (d.gateCheck a e).producerReg = d.producerReg := (d.gateCheck_frame a e).2.2.2.2.2.2.2.2.2.2.2.2.2.2.2.2.2.1
@[simp] theorem Device.gateCheck_consumerReg (a : Slot) (e : Entry) : (d.gateCheck a e).consumerReg = d.consumerReg := (d.gateCheck_frame a e).2.2.2.2.2.2.2.2.2.2.2.2.2.2.2.2.2.2.1
@[simp] theorem Device.gateCheck_link (a : Slot) (e : Entry) : (d.gateCheck a e).link = d.link := (d.gateCheck_frame a e).2.2.2.2.2.2.2.2.2.2.2.2.2.2.2.2.2.2.2

/-! ### actionStage -/

/-- What `actionStage` leaves as it was. -/
theorem Device.actionStage_frame (a : Slot) :
    (d.actionStage a).dstate = d.dstate ∧
    (d.actionStage a).hreason = d.hreason ∧
    (d.actionStage a).rcause = d.rcause ∧
    (d.actionStage a).alert = d.alert ∧
    (d.actionStage a).control = d.control ∧
    (d.actionStage a).bootLo = d.bootLo ∧
    (d.actionStage a).bootHi = d.bootHi ∧
    (d.actionStage a).bootCopy = d.bootCopy ∧
    (d.actionStage a).bootRead = d.bootRead ∧
    (d.actionStage a).snapWrite = d.snapWrite ∧
    (d.actionStage a).now = d.now ∧
    (d.actionStage a).inputs = d.inputs ∧
    (d.actionStage a).zones = d.zones ∧
    (d.actionStage a).sup = d.sup ∧
    (d.actionStage a).rings = d.rings ∧
    (d.actionStage a).channel = d.channel ∧
    (d.actionStage a).lastGrant = d.lastGrant ∧
    (d.actionStage a).producerReg = d.producerReg ∧
    (d.actionStage a).consumerReg = d.consumerReg ∧
    (d.actionStage a).link = d.link := by
  unfold Device.actionStage
  repeat' split
  all_goals simp

@[simp] theorem Device.actionStage_dstate (a : Slot) : (d.actionStage a).dstate = d.dstate := (d.actionStage_frame a).1
@[simp] theorem Device.actionStage_hreason (a : Slot) : (d.actionStage a).hreason = d.hreason := (d.actionStage_frame a).2.1
@[simp] theorem Device.actionStage_rcause (a : Slot) : (d.actionStage a).rcause = d.rcause := (d.actionStage_frame a).2.2.1
@[simp] theorem Device.actionStage_alert (a : Slot) : (d.actionStage a).alert = d.alert := (d.actionStage_frame a).2.2.2.1
@[simp] theorem Device.actionStage_control (a : Slot) : (d.actionStage a).control = d.control := (d.actionStage_frame a).2.2.2.2.1
@[simp] theorem Device.actionStage_bootLo (a : Slot) : (d.actionStage a).bootLo = d.bootLo := (d.actionStage_frame a).2.2.2.2.2.1
@[simp] theorem Device.actionStage_bootHi (a : Slot) : (d.actionStage a).bootHi = d.bootHi := (d.actionStage_frame a).2.2.2.2.2.2.1
@[simp] theorem Device.actionStage_bootCopy (a : Slot) : (d.actionStage a).bootCopy = d.bootCopy := (d.actionStage_frame a).2.2.2.2.2.2.2.1
@[simp] theorem Device.actionStage_bootRead (a : Slot) : (d.actionStage a).bootRead = d.bootRead := (d.actionStage_frame a).2.2.2.2.2.2.2.2.1
@[simp] theorem Device.actionStage_snapWrite (a : Slot) : (d.actionStage a).snapWrite = d.snapWrite := (d.actionStage_frame a).2.2.2.2.2.2.2.2.2.1
@[simp] theorem Device.actionStage_now (a : Slot) : (d.actionStage a).now = d.now := (d.actionStage_frame a).2.2.2.2.2.2.2.2.2.2.1
@[simp] theorem Device.actionStage_inputs (a : Slot) : (d.actionStage a).inputs = d.inputs := (d.actionStage_frame a).2.2.2.2.2.2.2.2.2.2.2.1
@[simp] theorem Device.actionStage_zones (a : Slot) : (d.actionStage a).zones = d.zones := (d.actionStage_frame a).2.2.2.2.2.2.2.2.2.2.2.2.1
@[simp] theorem Device.actionStage_sup (a : Slot) : (d.actionStage a).sup = d.sup := (d.actionStage_frame a).2.2.2.2.2.2.2.2.2.2.2.2.2.1
@[simp] theorem Device.actionStage_rings (a : Slot) : (d.actionStage a).rings = d.rings := (d.actionStage_frame a).2.2.2.2.2.2.2.2.2.2.2.2.2.2.1
@[simp] theorem Device.actionStage_channel (a : Slot) : (d.actionStage a).channel = d.channel := (d.actionStage_frame a).2.2.2.2.2.2.2.2.2.2.2.2.2.2.2.1
@[simp] theorem Device.actionStage_lastGrant (a : Slot) : (d.actionStage a).lastGrant = d.lastGrant := (d.actionStage_frame a).2.2.2.2.2.2.2.2.2.2.2.2.2.2.2.2.1
@[simp] theorem Device.actionStage_producerReg (a : Slot) : (d.actionStage a).producerReg = d.producerReg := (d.actionStage_frame a).2.2.2.2.2.2.2.2.2.2.2.2.2.2.2.2.2.1
@[simp] theorem Device.actionStage_consumerReg (a : Slot) : (d.actionStage a).consumerReg = d.consumerReg := (d.actionStage_frame a).2.2.2.2.2.2.2.2.2.2.2.2.2.2.2.2.2.2.1
@[simp] theorem Device.actionStage_link (a : Slot) : (d.actionStage a).link = d.link := (d.actionStage_frame a).2.2.2.2.2.2.2.2.2.2.2.2.2.2.2.2.2.2.2

/-! ### pointFault -/

/-- What `pointFault` leaves as it was. -/
theorem Device.pointFault_frame (p : PointId) :
    (d.pointFault p).dstate = d.dstate ∧
    (d.pointFault p).hreason = d.hreason ∧
    (d.pointFault p).rcause = d.rcause ∧
    (d.pointFault p).control = d.control ∧
    (d.pointFault p).bootLo = d.bootLo ∧
    (d.pointFault p).bootHi = d.bootHi ∧
    (d.pointFault p).bootCopy = d.bootCopy ∧
    (d.pointFault p).bootRead = d.bootRead ∧
    (d.pointFault p).snapWrite = d.snapWrite ∧
    (d.pointFault p).now = d.now ∧
    (d.pointFault p).groups = d.groups ∧
    (d.pointFault p).inputs = d.inputs ∧
    (d.pointFault p).zones = d.zones ∧
    (d.pointFault p).sup = d.sup ∧
    (d.pointFault p).rings = d.rings ∧
    (d.pointFault p).channel = d.channel ∧
    (d.pointFault p).lastGrant = d.lastGrant ∧
    (d.pointFault p).producerReg = d.producerReg ∧
    (d.pointFault p).consumerReg = d.consumerReg ∧
    (d.pointFault p).link = d.link := by
  unfold Device.pointFault
  simp

@[simp] theorem Device.pointFault_dstate (p : PointId) : (d.pointFault p).dstate = d.dstate := (d.pointFault_frame p).1
@[simp] theorem Device.pointFault_hreason (p : PointId) : (d.pointFault p).hreason = d.hreason := (d.pointFault_frame p).2.1
@[simp] theorem Device.pointFault_rcause (p : PointId) : (d.pointFault p).rcause = d.rcause := (d.pointFault_frame p).2.2.1
@[simp] theorem Device.pointFault_control (p : PointId) : (d.pointFault p).control = d.control := (d.pointFault_frame p).2.2.2.1
@[simp] theorem Device.pointFault_bootLo (p : PointId) : (d.pointFault p).bootLo = d.bootLo := (d.pointFault_frame p).2.2.2.2.1
@[simp] theorem Device.pointFault_bootHi (p : PointId) : (d.pointFault p).bootHi = d.bootHi := (d.pointFault_frame p).2.2.2.2.2.1
@[simp] theorem Device.pointFault_bootCopy (p : PointId) : (d.pointFault p).bootCopy = d.bootCopy := (d.pointFault_frame p).2.2.2.2.2.2.1
@[simp] theorem Device.pointFault_bootRead (p : PointId) : (d.pointFault p).bootRead = d.bootRead := (d.pointFault_frame p).2.2.2.2.2.2.2.1
@[simp] theorem Device.pointFault_snapWrite (p : PointId) : (d.pointFault p).snapWrite = d.snapWrite := (d.pointFault_frame p).2.2.2.2.2.2.2.2.1
@[simp] theorem Device.pointFault_now (p : PointId) : (d.pointFault p).now = d.now := (d.pointFault_frame p).2.2.2.2.2.2.2.2.2.1
@[simp] theorem Device.pointFault_groups (p : PointId) : (d.pointFault p).groups = d.groups := (d.pointFault_frame p).2.2.2.2.2.2.2.2.2.2.1
@[simp] theorem Device.pointFault_inputs (p : PointId) : (d.pointFault p).inputs = d.inputs := (d.pointFault_frame p).2.2.2.2.2.2.2.2.2.2.2.1
@[simp] theorem Device.pointFault_zones (p : PointId) : (d.pointFault p).zones = d.zones := (d.pointFault_frame p).2.2.2.2.2.2.2.2.2.2.2.2.1
@[simp] theorem Device.pointFault_sup (p : PointId) : (d.pointFault p).sup = d.sup := (d.pointFault_frame p).2.2.2.2.2.2.2.2.2.2.2.2.2.1
@[simp] theorem Device.pointFault_rings (p : PointId) : (d.pointFault p).rings = d.rings := (d.pointFault_frame p).2.2.2.2.2.2.2.2.2.2.2.2.2.2.1
@[simp] theorem Device.pointFault_channel (p : PointId) : (d.pointFault p).channel = d.channel := (d.pointFault_frame p).2.2.2.2.2.2.2.2.2.2.2.2.2.2.2.1
@[simp] theorem Device.pointFault_lastGrant (p : PointId) : (d.pointFault p).lastGrant = d.lastGrant := (d.pointFault_frame p).2.2.2.2.2.2.2.2.2.2.2.2.2.2.2.2.1
@[simp] theorem Device.pointFault_producerReg (p : PointId) : (d.pointFault p).producerReg = d.producerReg := (d.pointFault_frame p).2.2.2.2.2.2.2.2.2.2.2.2.2.2.2.2.2.1
@[simp] theorem Device.pointFault_consumerReg (p : PointId) : (d.pointFault p).consumerReg = d.consumerReg := (d.pointFault_frame p).2.2.2.2.2.2.2.2.2.2.2.2.2.2.2.2.2.2.1
@[simp] theorem Device.pointFault_link (p : PointId) : (d.pointFault p).link = d.link := (d.pointFault_frame p).2.2.2.2.2.2.2.2.2.2.2.2.2.2.2.2.2.2.2

/-! ### closePoint -/

/-- What `closePoint` leaves as it was. -/
theorem Device.closePoint_frame (p : PointId) :
    (d.closePoint p).dstate = d.dstate ∧
    (d.closePoint p).hreason = d.hreason ∧
    (d.closePoint p).rcause = d.rcause ∧
    (d.closePoint p).alert = d.alert ∧
    (d.closePoint p).control = d.control ∧
    (d.closePoint p).bootLo = d.bootLo ∧
    (d.closePoint p).bootHi = d.bootHi ∧
    (d.closePoint p).bootCopy = d.bootCopy ∧
    (d.closePoint p).bootRead = d.bootRead ∧
    (d.closePoint p).snapWrite = d.snapWrite ∧
    (d.closePoint p).now = d.now ∧
    (d.closePoint p).timing = d.timing ∧
    (d.closePoint p).slots = d.slots ∧
    (d.closePoint p).groups = d.groups ∧
    (d.closePoint p).inputs = d.inputs ∧
    (d.closePoint p).zones = d.zones ∧
    (d.closePoint p).sup = d.sup ∧
    (d.closePoint p).rings = d.rings ∧
    (d.closePoint p).channel = d.channel ∧
    (d.closePoint p).lastGrant = d.lastGrant ∧
    (d.closePoint p).producerReg = d.producerReg ∧
    (d.closePoint p).c0 = d.c0 ∧
    (d.closePoint p).c1 = d.c1 ∧
    (d.closePoint p).consumerReg = d.consumerReg ∧
    (d.closePoint p).link = d.link := by
  unfold Device.closePoint
  repeat' split
  all_goals simp

@[simp] theorem Device.closePoint_dstate (p : PointId) : (d.closePoint p).dstate = d.dstate := (d.closePoint_frame p).1
@[simp] theorem Device.closePoint_hreason (p : PointId) : (d.closePoint p).hreason = d.hreason := (d.closePoint_frame p).2.1
@[simp] theorem Device.closePoint_rcause (p : PointId) : (d.closePoint p).rcause = d.rcause := (d.closePoint_frame p).2.2.1
@[simp] theorem Device.closePoint_alert (p : PointId) : (d.closePoint p).alert = d.alert := (d.closePoint_frame p).2.2.2.1
@[simp] theorem Device.closePoint_control (p : PointId) : (d.closePoint p).control = d.control := (d.closePoint_frame p).2.2.2.2.1
@[simp] theorem Device.closePoint_bootLo (p : PointId) : (d.closePoint p).bootLo = d.bootLo := (d.closePoint_frame p).2.2.2.2.2.1
@[simp] theorem Device.closePoint_bootHi (p : PointId) : (d.closePoint p).bootHi = d.bootHi := (d.closePoint_frame p).2.2.2.2.2.2.1
@[simp] theorem Device.closePoint_bootCopy (p : PointId) : (d.closePoint p).bootCopy = d.bootCopy := (d.closePoint_frame p).2.2.2.2.2.2.2.1
@[simp] theorem Device.closePoint_bootRead (p : PointId) : (d.closePoint p).bootRead = d.bootRead := (d.closePoint_frame p).2.2.2.2.2.2.2.2.1
@[simp] theorem Device.closePoint_snapWrite (p : PointId) : (d.closePoint p).snapWrite = d.snapWrite := (d.closePoint_frame p).2.2.2.2.2.2.2.2.2.1
@[simp] theorem Device.closePoint_now (p : PointId) : (d.closePoint p).now = d.now := (d.closePoint_frame p).2.2.2.2.2.2.2.2.2.2.1
@[simp] theorem Device.closePoint_timing (p : PointId) : (d.closePoint p).timing = d.timing := (d.closePoint_frame p).2.2.2.2.2.2.2.2.2.2.2.1
@[simp] theorem Device.closePoint_slots (p : PointId) : (d.closePoint p).slots = d.slots := (d.closePoint_frame p).2.2.2.2.2.2.2.2.2.2.2.2.1
@[simp] theorem Device.closePoint_groups (p : PointId) : (d.closePoint p).groups = d.groups := (d.closePoint_frame p).2.2.2.2.2.2.2.2.2.2.2.2.2.1
@[simp] theorem Device.closePoint_inputs (p : PointId) : (d.closePoint p).inputs = d.inputs := (d.closePoint_frame p).2.2.2.2.2.2.2.2.2.2.2.2.2.2.1
@[simp] theorem Device.closePoint_zones (p : PointId) : (d.closePoint p).zones = d.zones := (d.closePoint_frame p).2.2.2.2.2.2.2.2.2.2.2.2.2.2.2.1
@[simp] theorem Device.closePoint_sup (p : PointId) : (d.closePoint p).sup = d.sup := (d.closePoint_frame p).2.2.2.2.2.2.2.2.2.2.2.2.2.2.2.2.1
@[simp] theorem Device.closePoint_rings (p : PointId) : (d.closePoint p).rings = d.rings := (d.closePoint_frame p).2.2.2.2.2.2.2.2.2.2.2.2.2.2.2.2.2.1
@[simp] theorem Device.closePoint_channel (p : PointId) : (d.closePoint p).channel = d.channel := (d.closePoint_frame p).2.2.2.2.2.2.2.2.2.2.2.2.2.2.2.2.2.2.1
@[simp] theorem Device.closePoint_lastGrant (p : PointId) : (d.closePoint p).lastGrant = d.lastGrant := (d.closePoint_frame p).2.2.2.2.2.2.2.2.2.2.2.2.2.2.2.2.2.2.2.1
@[simp] theorem Device.closePoint_producerReg (p : PointId) : (d.closePoint p).producerReg = d.producerReg := (d.closePoint_frame p).2.2.2.2.2.2.2.2.2.2.2.2.2.2.2.2.2.2.2.2.1
@[simp] theorem Device.closePoint_c0 (p : PointId) : (d.closePoint p).c0 = d.c0 := (d.closePoint_frame p).2.2.2.2.2.2.2.2.2.2.2.2.2.2.2.2.2.2.2.2.2.1
@[simp] theorem Device.closePoint_c1 (p : PointId) : (d.closePoint p).c1 = d.c1 := (d.closePoint_frame p).2.2.2.2.2.2.2.2.2.2.2.2.2.2.2.2.2.2.2.2.2.2.1
@[simp] theorem Device.closePoint_consumerReg (p : PointId) : (d.closePoint p).consumerReg = d.consumerReg := (d.closePoint_frame p).2.2.2.2.2.2.2.2.2.2.2.2.2.2.2.2.2.2.2.2.2.2.2.1
@[simp] theorem Device.closePoint_link (p : PointId) : (d.closePoint p).link = d.link := (d.closePoint_frame p).2.2.2.2.2.2.2.2.2.2.2.2.2.2.2.2.2.2.2.2.2.2.2.2

end Sys2Proof.Machine
end

