-- ==== Sys2Proof/Laws/Changes.lean ====
section
/-! SUPPORT. Everything a command that is no reset can change, said once: each command's effect is a chain of the small
changes listed in `Change`. An invariant that every small change keeps is kept by every command. -/

namespace Sys2Proof.Machine

/-! ## The small changes -/

/-- What may happen to one point: its configuration stays, it goes ON in RUN alone, and its PSTATE changes in the
three commands that find or clear a point fault. -/
def PointStep (c : Instr) (d : Device) (p : PointId) (v : Point) : Prop :=
  v.group = d.points[p].group ∧ v.mode = d.points[p].mode ∧ v.readback = d.points[p].readback ∧
    (v.level = true → d.dstate = .run ∨ d.points[p].level = true) ∧
    (v.pstate = d.points[p].pstate ∨ c = .settleWindowEnd p ∨ (∃ l, c = .senseChange p l) ∨ c = .clearPointFault)

/-- What may happen to one group: its expression stays, its gate opens and its wait list is joined in RUN alone, and
FORCE_GROUP alone changes FORCE. -/
def GroupStep (c : Instr) (d : Device) (k : Fin 7) (v : Group) : Prop :=
  v.terms = d.groups[k].terms ∧ v.lits = d.groups[k].lits ∧
    (v.gate = true → d.dstate = .run ∨ d.groups[k].gate = true) ∧
    (d.dstate = .run ∨ (d.groups[k].waits = [] → v.waits = [])) ∧
    (v.force = d.groups[k].force ∨ c = .forceGroup)

/-- What may happen to one input: its configuration stays, and its trigger waits are joined in RUN alone. -/
def InputStep (d : Device) (i : InputId) (v : Input) : Prop :=
  v.debounce = d.inputs[i].debounce ∧ v.invert = d.inputs[i].invert ∧
    (d.dstate = .run ∨ (d.inputs[i].waits = [] → v.waits = []))

/-- Why command `c`, begun in device state `s0`, may halt the device with a reason (R173, R183): a boot that begins or
ends, a write to C0 or a read of ring 0 that fails, or one of these that cannot be issued. -/
def HaltCause (c : Instr) (s0 : DState) (d : Device) (reason : HReason) : Prop :=
  (reason = .bootflt ∨ reason = .bootbad) ∧ s0 = .init ∧ beginsBoot c = true ∨
  reason = .bootflt ∧ s0 = .booting ∧ (∃ how, c = .bootReadFailure how) ∨
  reason = .bootbad ∧ s0 = .booting ∧ (∃ b, c = .bootReadArrival b ∧ bootBlockOk b = false) ∨
  reason = .c0flt ∧ d.operational = true ∧ (c = .completionWriteFailed .c0 ∨ d.busReady = false) ∨
  reason = .aringflt ∧ d.operational = true ∧ ((∃ how, c = .readFailure how) ∨ d.busReady = false)

/-- One small change of the device within command `c`, begun in device state `s0`. -/
inductive Change (c : Instr) (s0 : DState) (d : Device) : Device → Prop
  | registers (alert control bootLo bootHi producerReg consumerReg : Word) (bootRead : Option BootRead)
      (snapWrite : Option SnapWrite) (lastGrant : RingId) (messages : Nat) :
      Change c s0 d
        { d with
          alert := alert, control := control, bootLo := bootLo, bootHi := bootHi, producerReg := producerReg,
          consumerReg := consumerReg, bootRead := bootRead, snapWrite := snapWrite, lastGrant := lastGrant,
          link := { d.link with messages := messages } }
  | entryState (a : Slot) (e : Entry) (st : EntryState) (h : d.slots[a] = some e) :
      Change c s0 d (d.setSlot a (some { e with st := st }))
  | slotFreed (a : Slot) : Change c s0 d (d.setSlot a none)
  | timing (l : List TimerEntry) (h : d.dstate = .run ∨ (d.timing = [] → l = [])) : Change c s0 d { d with timing := l }
  | points (v : Vector Point 64) (h : ∀ p : PointId, PointStep c d p v[p]) : Change c s0 d { d with points := v }
  | groups (v : Vector Group 7) (h : ∀ k : Fin 7, GroupStep c d k v[k]) : Change c s0 d { d with groups := v }
  | inputs (v : Vector Input 32) (h : ∀ i : InputId, InputStep d i v[i]) : Change c s0 d { d with inputs := v }
  | supervision (v : Supervision)
      (h : v.interval = d.sup.interval ∧
        (d.dstate = .run ∨ d.sup.supv ≠ .off ∨ v.supv = .off ∧ v.countdown = none)) :
      Change c s0 d { d with sup := v }
  | queue (n : CRingId) (q : List Slot) : Change c s0 d (d.setCRing n { d.cring n with queue := q })
  | cause (n : CRingId) (ic : Bool) (countdown : Option Time) :
      Change c s0 d (d.setCRing n { d.cring n with ic := ic, countdown := countdown })
  | writeIssued (n : CRingId) (w : CWrite) (h : d.mayIssue n = true) :
      Change c s0 d (d.setCRing n { d.cring n with inflight := some w })
  | writeAccepted (n : CRingId) (h : (d.cring n).inflight.isSome = true) :
      Change c s0 d (d.setCRing n ((d.cring n).accepted d.now))
  | consumed (n : CRingId) (v : Word) (h : d.consumerOk n v = true) :
      Change c s0 d (d.setCRing n { d.cring n with consumer := indexField v })
  | c1Faulted :
      Change c s0 d
        { d with c1 := { d.c1 with state := .faulted, inflight := none, queue := [], ic := false, countdown := none } }
  | c1Configured (record : RawRecord) (h : configureCompletionOk record = true) :
      Change c s0 d { d with c1 := configuredCompletion record }
  | bufferDropped (r : RingId) : Change c s0 d (d.dropBuffer r)
  | ringStopped (r : RingId) (st : RingState) (cause : FaultCause) (hr : r ≠ 0)
      (hst : st = .faulted ∨ st = .resetting) (h : d.rings[r].state = .active ∨ d.rings[r].state = .faulted) :
      Change c s0 d ((d.setRing r { d.rings[r] with state := st, cause := cause }).dropBuffer r)
  | ringRestarted (r : RingId) (st : RingState) (cause : FaultCause) (h : d.rings[r].state = .resetting)
      (hh : d.held r = 0) :
      Change c s0 d (d.setRing r { d.rings[r] with tail := 0, producer := 0, state := st, cause := cause })
  | ringConfigured (record : RawRecord) (h : configureRingOk record = true)
      (hs : d.rings[ringNumberOf record].state = .disabled) :
      Change c s0 d (d.setRing (ringNumberOf record) (configuredRing record))
  | produced (r : RingId) (i : Nat) (h : i < d.rings[r].size)
      (hb : d.rings[r].buf.length ≤ indexSub i d.rings[r].tail d.rings[r].size) :
      Change c s0 d (d.setRing r { d.rings[r] with producer := i })
  | taken (r : RingId) (head : RawRecord) (rest : List RawRecord) (a : Slot) (h : d.taken? r = some (head, rest, a)) :
      Change c s0 d (d.takeHead r a head rest)
  | granted (r : RingId) (h : d.requests r = true) (hc : d.channel = none) :
      Change c s0 d { d with channel := some (d.readFor r) }
  | readEnded : Change c s0 d { d with channel := none }
  | arrived (op : ReadOp) (records : List RawRecord) (hc : d.channel = some op) (hd : op.discard = false)
      (hn : records.length = op.count)
      (h : d.rings[op.ring].buf.length + op.count ≤ d.rings[op.ring].available) :
      Change c s0 d
        (({ d with channel := none } : Device).setRing op.ring
          { d.rings[op.ring] with buf := d.rings[op.ring].buf ++ records })
  | bootBegun (h : d.dstate = .init) (hs : s0 = .init) (hc : beginsBoot c = true) :
      Change c s0 d { d with dstate := .booting }
  | booted (b : BootBlock) (h : d.dstate = .booting) (hs : s0 = .booting) (hc : c = .bootReadArrival b)
      (hb : bootBlockOk b = true) : Change c s0 d (d.bootSucceeds b)
  | runEntered (h : d.dstate = .configure) (hs : s0 = .configure) (hc : c = .enterRun) :
      Change c s0 d { d with dstate := .run }
  | drainBegun (h : d.dstate = .run) (hs : s0 = .run) (hc : c = .enterConfigure)
      (hp : ∀ p : PointId, d.points[p].level = false) (hg : ∀ k : Fin 7, d.groups[k].gate = false)
      (hv : d.sup.supv = .off ∧ d.sup.countdown = none) :
      Change c s0 d
        { d with
          dstate := .draining
          timing := []
          groups := d.groups.map (fun g => { g with waits := [] })
          inputs := d.inputs.map (fun i => { i with waits := [] }) }
  | drainEnded (h : d.dstate = .draining) (he : d.actionPoolEmpty = true) :
      Change c s0 d { d with dstate := .configure }
  | halted (reason : HReason) (h : d.dstate ≠ .init) (hh : d.dstate ≠ .halted) (hc : HaltCause c s0 d reason) :
      Change c s0 d (d.halt reason)
  | pointDefined (p : PointId) (v : Point) (hs : s0 = .configure) (hc : c = .definePoint)
      (hl : v.level = d.points[p].level) (hp : v.pstate = d.points[p].pstate) : Change c s0 d (d.setPoint p v)
  | inputDefined (i : InputId) (v : Input) (hs : s0 = .configure) (hc : c = .defineInput)
      (hw : v.waits = d.inputs[i].waits) : Change c s0 d (d.setInput i v)
  | zoneDefined (z : Fin 8) (v : Zone) (hs : s0 = .configure) (hc : c = .defineZone) :
      Change c s0 d { d with zones := d.zones.set z v }
  | groupDefined (k : Fin 7) (v : Group) (hs : s0 = .configure) (hc : c = .defineGroup)
      (hv : v.gate = d.groups[k].gate ∧ v.waits = d.groups[k].waits ∧ v.force = d.groups[k].force)
      (ho : ∀ (s : Fin 16) (g : Fin 8) (neg : Bool), v.lits[s] = .gate g neg → g.val < k.val + 1) :
      Change c s0 d (d.setGroup k v)
  | intervalDefined (x : BitVec 16) (hs : s0 = .configure) (hc : c = .setSupervision) :
      Change c s0 d { d with sup := { d.sup with interval := x } }

/-- A chain of small changes. -/
def Changes (c : Instr) (s0 : DState) : Device → Device → Prop := Relation.ReflTransGen (Change c s0)

end Sys2Proof.Machine
end

