-- ==== Sys2Proof/Laws/ChangesOps.lean ====
section
/-! SUPPORT. The shared operations as chains of small changes. -/

namespace Sys2Proof.Machine

variable {c : Instr} {s0 : DState}

theorem Changes.none {d : Device} : Changes c s0 d d := Relation.ReflTransGen.refl

theorem Change.one {d d' : Device} (h : Change c s0 d d') : Changes c s0 d d' := Relation.ReflTransGen.single h

theorem Changes.then {d d' d'' : Device} (h : Changes c s0 d d') (h' : Changes c s0 d' d'') : Changes c s0 d d'' :=
  Relation.ReflTransGen.trans h h'

/-- A fold of an operation that is a chain of changes is one. -/
theorem Changes.fold {α : Type} (f : Device → α → Device) (h : ∀ d x, Changes c s0 d (f d x)) (l : List α) (d : Device) :
    Changes c s0 d (l.foldl f d) := by
  induction l generalizing d with
  | nil => exact .none
  | cons x xs ih => exact (h d x).then (ih _)

/-- The same for an operation that is one in RUN and stays in RUN. -/
theorem Changes.foldRun {α : Type} (f : Device → α → Device)
    (h : ∀ d x, d.dstate = .run → Changes c s0 d (f d x)) (hr : ∀ d x, (f d x).dstate = d.dstate) (l : List α)
    (d : Device) (hd : d.dstate = .run) : Changes c s0 d (l.foldl f d) := by
  induction l generalizing d with
  | nil => exact .none
  | cons x xs ih => exact (h d x hd).then (ih _ (by rw [hr, hd]))

/-- A fold of an operation that keeps the device state keeps it. -/
theorem foldl_dstate {α : Type} (f : Device → α → Device) (hr : ∀ d x, (f d x).dstate = d.dstate) (l : List α)
    (d : Device) : (l.foldl f d).dstate = d.dstate := by
  induction l generalizing d with
  | nil => rfl
  | cons x xs ih => exact (ih _).trans (hr d x)

/-! ## Points -/

/-- The changes of one point are changes of the points. -/
theorem setPoint_changes (d : Device) (p : PointId) (v : Point) (h : PointStep c d p v) :
    Changes c s0 d (d.setPoint p v) := by
  refine Change.one (.points _ fun q => ?_)
  by_cases hq : p = q
  · subst hq; simpa [Fin.getElem_fin] using h
  · have : p.val ≠ q.val := fun he => hq (Fin.ext he)
    simp [Fin.getElem_fin, this, PointStep]
    exact Or.inr

theorem Point.drive_config (p : Point) (now : Time) (l : Bool) :
    (p.drive now l).group = p.group ∧ (p.drive now l).mode = p.mode ∧ (p.drive now l).readback = p.readback ∧
      (p.drive now l).pstate = p.pstate ∧ (p.drive now l).level = l ∧ (p.drive now l).claim = p.claim ∧
      (p.drive now l).sense = p.sense := by
  unfold Point.drive
  split <;> simp_all

theorem driveLevel_changes (d : Device) (p : PointId) (l : Bool) (h : l = true → d.dstate = .run) :
    Changes c s0 d (d.driveLevel p l) := by
  obtain ⟨h1, h2, h3, h4, h5, -, -⟩ := Point.drive_config d.points[p] d.now l
  exact setPoint_changes d p _ ⟨h1, h2, h3, fun hl => .inl (h (h5 ▸ hl)), .inl h4⟩

theorem setClaim_changes (d : Device) (p : PointId) (x : Option Slot) : Changes c s0 d (d.setClaim p x) :=
  setPoint_changes d p _ ⟨rfl, rfl, rfl, Or.inr, .inl rfl⟩

theorem allOff_changes (d : Device) : Changes c s0 d d.allOff := by
  refine Change.one (.points _ fun p => ?_)
  obtain ⟨h1, h2, h3, h4, h5, -, -⟩ := Point.drive_config d.points[p] d.now false
  simp only [PointStep, Fin.getElem_fin, Vector.getElem_map] at *
  exact ⟨h1, h2, h3, by simp [h5], .inl h4⟩

/-! ## Entries, the Timing List and answers -/

theorem withdraw_changes (d : Device) (a : Slot) : Changes c s0 d (d.withdraw a) :=
  Change.one (.timing _ (.inr fun h => by simp [h]))

theorem addTimer_changes (d : Device) (t : TimerEntry) (h : d.dstate = .run) : Changes c s0 d (d.addTimer t) :=
  Change.one (.timing _ (.inl h))

theorem freeSlot_changes (d : Device) (a : Slot) : Changes c s0 d (d.freeSlot a) := Change.one (.slotFreed a)

theorem pushAnswer_changes (d : Device) (n : CRingId) (a : Slot) : Changes c s0 d (d.pushAnswer n a) :=
  Change.one (.queue n _)

theorem setEntryState_changes (d : Device) (a : Slot) (st : EntryState) : Changes c s0 d (d.setEntryState a st) := by
  unfold Device.setEntryState
  split
  · exact .none
  · exact Change.one (.entryState _ _ _ ‹_›)

theorem answer_changes (d : Device) (a : Slot) (st : Status) (x : Word) : Changes c s0 d (d.answer a st x) := by
  unfold Device.answer
  split
  · exact .none
  · split
    · exact (withdraw_changes d a).then (freeSlot_changes _ a)
    · refine ((withdraw_changes d a).then (Change.one (.entryState a _ _ ?_))).then (pushAnswer_changes _ _ a)
      assumption

theorem cancelClaim_changes (d : Device) (p : PointId) (st : Status) : Changes c s0 d (d.cancelClaim p st) := by
  unfold Device.cancelClaim
  split
  · exact .none
  · exact (setClaim_changes d p none).then (answer_changes _ _ _ _)

/-! ## Waits -/

/-- The change of one group is a change of the groups. -/
theorem setGroup_changes (d : Device) (k : Fin 7) (v : Group) (h : GroupStep c d k v) :
    Changes c s0 d (d.setGroup k v) := by
  refine Change.one (.groups _ fun q => ?_)
  by_cases hq : k = q
  · subst hq; simpa [Fin.getElem_fin] using h
  · have : k.val ≠ q.val := fun he => hq (Fin.ext he)
    simp [Fin.getElem_fin, this, GroupStep]
    exact Or.inr

/-- The change of one input is a change of the inputs. -/
theorem setInput_changes (d : Device) (i : InputId) (v : Input) (h : InputStep d i v) :
    Changes c s0 d (d.setInput i v) := by
  refine Change.one (.inputs _ fun q => ?_)
  by_cases hq : i = q
  · subst hq; simpa [Fin.getElem_fin] using h
  · have : i.val ≠ q.val := fun he => hq (Fin.ext he)
    simp [Fin.getElem_fin, this, InputStep]

theorem unwait_changes (d : Device) (a : Slot) : Changes c s0 d (d.unwait a) := by
  have h1 : Changes c s0 d
      { d with inputs := d.inputs.map (fun i => { i with waits := i.waits.filter (· != a) }) } :=
    Change.one (.inputs _ fun i => by
      simp only [InputStep, Fin.getElem_fin, Vector.getElem_map]
      exact ⟨trivial, trivial, Or.inr fun h => by simp [h]⟩)
  refine h1.then (Change.one (.groups (d.groups.map (fun g => { g with waits := g.waits.filter (· != a) })) fun k => ?_))
  simp only [GroupStep, Fin.getElem_fin, Vector.getElem_map]
  exact ⟨trivial, trivial, Or.inr, Or.inr fun h => by simp [h], Or.inl trivial⟩

theorem joinGate_changes (d : Device) (g : Fin 8) (a : Slot) (h : d.dstate = .run) :
    Changes c s0 d (d.joinGate g a) := by
  unfold Device.joinGate
  split
  · exact .none
  · exact setGroup_changes d _ _ ⟨rfl, rfl, Or.inr, .inl h, .inl rfl⟩

theorem joinTrigger_changes (d : Device) (i : InputId) (a : Slot) (h : d.dstate = .run) :
    Changes c s0 d (d.joinTrigger i a) :=
  setInput_changes d i _ ⟨rfl, rfl, .inl h⟩

theorem cancelEntry_changes (d : Device) (a : Slot) (st : Status) : Changes c s0 d (d.cancelEntry a st) := by
  unfold Device.cancelEntry
  split
  · exact .none
  · split
    · refine Changes.then (Changes.then ?_ (unwait_changes _ _)) (answer_changes _ _ _ _)
      split
      · exact setClaim_changes _ _ _
      · exact .none
    · exact .none

theorem cancelRing_changes (d : Device) (r : RingId) (st : Status) : Changes c s0 d (d.cancelRing r st) :=
  Changes.fold _ (fun d a => by split; exact cancelEntry_changes d a st; exact .none) _ _

theorem cancelActions_changes (d : Device) (st : Status) : Changes c s0 d (d.cancelActions st) :=
  Changes.fold _ (fun d a => cancelEntry_changes d a st) _ _

@[simp] theorem cancelRing_dstate (d : Device) (r : RingId) (st : Status) : (d.cancelRing r st).dstate = d.dstate :=
  foldl_dstate _ (fun d a => by split <;> simp) _ _

@[simp] theorem cancelActions_dstate (d : Device) (st : Status) : (d.cancelActions st).dstate = d.dstate :=
  foldl_dstate _ (fun d a => by simp) _ _

/-! ## Registers -/

theorem raiseAlert_changes (d : Device) (x : Word) : Changes c s0 d (d.raiseAlert x) :=
  Change.one (.registers (d.alert ||| x) d.control d.bootLo d.bootHi d.producerReg d.consumerReg d.bootRead d.snapWrite
    d.lastGrant d.link.messages)

theorem discardIndex_changes (d : Device) : Changes c s0 d d.discardIndex := by
  unfold Device.discardIndex
  split
  · exact .none
  · exact raiseAlert_changes _ _

/-! ## Gates and supervision -/

theorem closeGates_changes (d : Device) : Changes c s0 d d.closeGates :=
  Change.one (.groups _ fun k => by
    simp [GroupStep])

theorem stopSupervision_changes (d : Device) : Changes c s0 d d.stopSupervision :=
  Change.one (.supervision _ ⟨rfl, .inr (.inr ⟨rfl, rfl⟩)⟩)

theorem armCountdown_changes (d : Device) (x : Supv) (h : d.dstate = .run) : Changes c s0 d (d.armCountdown x) :=
  Change.one (.supervision _ ⟨rfl, .inl h⟩)

theorem startSupervision_changes (d : Device) (h : d.dstate = .run) : Changes c s0 d d.startSupervision := by
  unfold Device.startSupervision
  split
  · exact stopSupervision_changes d
  · exact armCountdown_changes d _ h

/-! ## The action stage -/

theorem beginTimed_changes (d : Device) (a : Slot) (e : Entry) (b : Option Blink) (h : d.dstate = .run) :
    Changes c s0 d (d.beginTimed a e b) :=
  (((withdraw_changes d a).then (setEntryState_changes _ _ _)).then (setClaim_changes _ _ _)).then
    (addTimer_changes _ _ (by simpa using h))

theorem effect_changes (d : Device) (a : Slot) (e : Entry) (h : d.dstate = .run) : Changes c s0 d (d.effect a e) := by
  have drive (l : Bool) : Changes c s0 d (d.driveLevel (pointOf e.record) l) := driveLevel_changes d _ l fun _ => h
  have timed (b : Option Blink) : Changes c s0 d ((d.driveLevel (pointOf e.record) true).beginTimed a e b) :=
    (drive true).then (beginTimed_changes _ a e b h)
  unfold Device.effect
  split
  · exact (drive true).then (answer_changes _ _ _ _)
  · exact (drive false).then (answer_changes _ _ _ _)
  · exact timed none
  · exact beginTimed_changes d a e none h
  · exact beginTimed_changes d a e none h
  · exact timed _
  all_goals exact .none

theorem claimCheck_changes (d : Device) (a : Slot) (e : Entry) (h : d.dstate = .run) :
    Changes c s0 d (d.claimCheck a e) := by
  unfold Device.claimCheck
  split
  · exact effect_changes d a e h
  · split
    · exact (cancelClaim_changes d _ _).then (effect_changes _ a e (by simpa using h))
    · exact answer_changes _ _ _ _

theorem actionStage_changes (d : Device) (a : Slot) (h : d.dstate = .run) : Changes c s0 d (d.actionStage a) := by
  unfold Device.actionStage Device.gateCheck
  repeat' split
  · exact .none
  · exact answer_changes _ _ _ _
  · exact (setEntryState_changes _ _ _).then (joinGate_changes _ _ _ (by simpa using h))
  · exact answer_changes _ _ _ _
  · exact claimCheck_changes d a _ h

/-! ## The pass -/

theorem releaseAll_changes (d : Device) (l : List Slot) (h : d.dstate = .run) : Changes c s0 d (d.releaseAll l) :=
  Changes.foldRun _ (fun d a h => (withdraw_changes d a).then (actionStage_changes _ a h)) (fun d a => by simp) l d h

@[simp] theorem releaseAll_dstate (d : Device) (l : List Slot) : (d.releaseAll l).dstate = d.dstate :=
  foldl_dstate _ (fun d a => by simp) _ _

theorem closeGroup_changes (d : Device) (k : Fin 7) : Changes c s0 d (d.closeGroup k) := by
  unfold Device.closeGroup
  refine Changes.then (Changes.then ?_ (Changes.fold _ (fun d p => cancelClaim_changes d p _) _ _))
    (Changes.fold _ (fun d p => ?_) _ _)
  · exact setGroup_changes d k _ ⟨rfl, rfl, by simp, Or.inr id, Or.inl rfl⟩
  · unfold Device.closePoint
    split
    · exact driveLevel_changes d p false (fun h => by cases h)
    · exact .none

@[simp] theorem closeGroup_dstate (d : Device) (k : Fin 7) : (d.closeGroup k).dstate = d.dstate := by
  unfold Device.closeGroup
  rw [foldl_dstate _ (fun d p => by simp), foldl_dstate _ (fun d p => by simp)]
  rfl

theorem openGroup_changes (d : Device) (k : Fin 7) (h : d.dstate = .run) : Changes c s0 d (d.openGroup k) :=
  (setGroup_changes d k { d.groups[k] with gate := true, waits := [] }
    ⟨rfl, rfl, fun _ => .inl h, .inl h, .inl rfl⟩).then (releaseAll_changes _ _ h)

@[simp] theorem openGroup_dstate (d : Device) (k : Fin 7) : (d.openGroup k).dstate = d.dstate := by
  simp [Device.openGroup]

@[simp] theorem passTurn_dstate (d : Device) (k : Fin 7) : (d.passTurn k).dstate = d.dstate := by
  unfold Device.passTurn
  repeat' split
  all_goals simp

@[simp] theorem pass_dstate (d : Device) : d.pass.dstate = d.dstate := by
  unfold Device.pass
  split
  · exact foldl_dstate _ passTurn_dstate _ _
  · rfl

theorem pass_changes (d : Device) : Changes c s0 d d.pass := by
  unfold Device.pass
  split
  · refine Changes.foldRun _ (fun d k h => ?_) passTurn_dstate _ d (by simpa using ‹(d.dstate == .run) = true›)
    unfold Device.passTurn
    repeat' split
    · exact .none
    · exact openGroup_changes d k h
    · exact closeGroup_changes d k
  · exact .none

/-! ## The bus-master side -/

theorem ringFault_changes (d : Device) (r : RingId) (x : FaultCause) : Changes c s0 d (d.ringFault r x) := by
  unfold Device.ringFault
  split
  next h =>
    simp only [Bool.and_eq_true, bne_iff_ne, ne_eq, beq_iff_eq] at h
    exact ((Change.one (.ringStopped r _ x h.1 (.inl rfl) (.inl h.2))).then (cancelRing_changes _ _ _)).then
      (raiseAlert_changes _ _)
  · exact .none

theorem haltFromBus_changes (d : Device) (x : HReason) (hc : d.operational = true → HaltCause c s0 d x) :
    Changes c s0 d (d.haltFromBus x) := by
  unfold Device.haltFromBus
  split
  next ho =>
    have h := ho
    unfold Device.operational at h
    exact Change.one (.halted x (by intro e; simp [e] at h) (by intro e; simp [e] at h) (hc ho))
  · exact .none

theorem endReset_changes (d : Device) (a : Slot) (h : RawRecord) : Changes c s0 d (d.endReset a h) := by
  unfold Device.endReset
  dsimp only
  split
  next hc =>
    simp only [Bool.and_eq_true, beq_iff_eq] at hc
    generalize resetEndState _ _ = st
    refine Changes.then ?_ (answer_changes _ _ _ _)
    by_cases hst : st = .faulted <;> simp only [hst, if_true, if_false]
    · exact (Change.one (.ringRestarted _ _ _ hc.1 hc.2)).then (raiseAlert_changes _ _)
    · exact Change.one (.ringRestarted _ _ _ hc.1 hc.2)
  · exact .none

theorem endDrain_changes (d : Device) (a : Slot) : Changes c s0 d (d.endDrain a) := by
  unfold Device.endDrain
  split
  next hc =>
    simp only [Bool.and_eq_true, beq_iff_eq] at hc
    exact ((allOff_changes d).then (Change.one (.drainEnded hc.1 hc.2))).then (answer_changes _ _ _ _)
  · exact .none

theorem endOps_changes (d : Device) : Changes c s0 d d.endOps := by
  unfold Device.endOps
  repeat' split
  · exact .none
  · exact .none
  · exact endReset_changes _ _ _
  · exact endDrain_changes _ _
  · exact .none

theorem faultC1_changes (d : Device) : Changes c s0 d d.faultC1 := by
  unfold Device.faultC1
  refine Changes.then ?_ (endOps_changes _)
  refine Changes.then ?_ (Changes.fold _ (fun d r => ?_) _ _)
  · refine Changes.then ?_ (raiseAlert_changes _ _)
    exact (Change.one .c1Faulted).then (Changes.fold _ freeSlot_changes _ _)
  · split
    · exact ringFault_changes _ _ _
    · exact .none

theorem failCompletion_changes (d : Device) (n : CRingId)
    (hc : c = .completionWriteFailed n ∨ d.busReady = false) : Changes c s0 d (d.failCompletion n) := by
  cases n
  · exact haltFromBus_changes d _ fun ho => .inr (.inr (.inr (.inl ⟨rfl, ho, hc⟩)))
  · exact faultC1_changes d

theorem issue_changes (d : Device) (n : CRingId) : Changes c s0 d (d.issue n) := by
  unfold Device.issue
  repeat' split
  · exact .none
  · exact Change.one (.writeIssued n _ ‹_›)
  · exact failCompletion_changes _ _ (.inr (by simpa using ‹¬d.busReady = true›))
  · exact .none

theorem readFailed_changes (d : Device) (r : RingId)
    (hc : (∃ how, c = .readFailure how) ∨ d.busReady = false) : Changes c s0 d (d.readFailed r) := by
  unfold Device.readFailed
  split
  · exact haltFromBus_changes _ _ fun ho => .inr (.inr (.inr (.inr ⟨rfl, ho, hc⟩)))
  · exact ringFault_changes _ _ _

theorem lastGrant_changes (d : Device) (r : RingId) : Changes c s0 d { d with lastGrant := r } :=
  Change.one (.registers d.alert d.control d.bootLo d.bootHi d.producerReg d.consumerReg d.bootRead d.snapWrite r
    d.link.messages)

theorem grant_changes (d : Device) : Changes c s0 d d.grant := by
  unfold Device.grant
  split
  · exact .none
  next hc =>
    split
    · exact .none
    next r hr =>
      have hq : d.requests r = true := List.find?_some hr
      split
      · exact (Change.one (.granted r hq hc)).then (lastGrant_changes _ _)
      next hb =>
        have hb' : d.busReady = false := by simpa using hb
        exact (lastGrant_changes _ _).then (readFailed_changes _ _ (.inr hb'))

theorem service_changes (d : Device) : Changes c s0 d d.service :=
  ((issue_changes d .c1).then (issue_changes _ .c0)).then (grant_changes _)

theorem serviceRounds_changes (n : Nat) (d : Device) : Changes c s0 d (Device.serviceRounds n d) := by
  induction n generalizing d with
  | zero => exact .none
  | succ n ih => exact (service_changes d).then (ih _)

theorem settle_changes (d : Device) : Changes c s0 d d.settle := by
  unfold Device.settle
  split
  · exact service_changes d
  · exact serviceRounds_changes 6 d

theorem signalRise_changes (d before : Device) (r : Bool) : Changes c s0 d (d.signalRise before r) := by
  rw [signalRise_eq]
  exact Change.one (.registers d.alert d.control d.bootLo d.bootHi d.producerReg d.consumerReg d.bootRead d.snapWrite
    d.lastGrant _)

theorem event_changes (d : Device) (f : Device → Device) (h : Changes c s0 d (f d)) : Changes c s0 d (d.event f) :=
  (h.then (settle_changes _)).then (signalRise_changes _ _ _)

end Sys2Proof.Machine
end

