-- ==== Sys2Proof/Laws/ChangesExec.lean ====
section
/-! SUPPORT. Every command that is no reset is a chain of small changes. -/

namespace Sys2Proof.Machine

variable {c : Instr}

/-- The device after a command's effect, told of the command itself. -/
abbrev Device.ChangesTo (d : Device) (c : Instr) (d' : Device) : Prop := Changes c d.dstate d d'

/-! ## Takings -/

@[simp] theorem takeHead_binding (d : Device) (r : RingId) (a : Slot) (h : RawRecord) (rest : List RawRecord) :
    (d.takeHead r a h rest).dstate = d.dstate := rfl

theorem taken_state (d : Device) (r : RingId) (h : RawRecord) (rest : List RawRecord) (a : Slot)
    (ht : d.taken? r = some (h, rest, a)) : d.takeState r = true := by
  unfold Device.taken? at ht
  split at ht
  · split at ht
    next hm => simp only [Device.ringMayTake, Bool.and_eq_true] at hm; exact hm.1.1
    · cases ht
  · cases ht

/-- A taking is the record's removal followed by its intake. -/
theorem taking_changes (d : Device) (r : RingId) (isKind : RawRecord → Bool)
    (intake : Slot → RawRecord → Device → Device)
    (h : ∀ a head d', isKind head = true → d'.dstate = d.dstate → d.takeState r = true →
      Changes c d.dstate d' (intake a head d')) :
    Changes c d.dstate d (d.taking r isKind intake) := by
  unfold Device.taking
  split
  next head rest a ht =>
    split
    next hk =>
      exact event_changes _ _ ((Change.one (.taken r head rest a ht)).then
        (h a head _ hk rfl (taken_state d r head rest a ht)))
    · exact .none
  · exact .none

theorem addDeadline_changes {s0 : DState} (d : Device) (a : Slot) (record : RawRecord) (h : d.dstate = .run) :
    Changes c s0 d (d.addDeadline a record) := by
  unfold Device.addDeadline
  split
  · exact .none
  · exact addTimer_changes d _ h

theorem enterTriggerWait_changes {s0 : DState} (d : Device) (a : Slot) (record : RawRecord) (h : d.dstate = .run) :
    Changes c s0 d (d.enterTriggerWait a record) :=
  (setEntryState_changes d a _).then (joinTrigger_changes _ _ _ (by simpa using h))

theorem takeState_run (d : Device) (r : RingId) (hr : (r != 0) = true) (h : d.takeState r = true) :
    d.dstate = .run := by
  unfold Device.takeState at h
  rw [if_neg (by simpa using hr)] at h
  simpa using h

theorem takeOutput_changes (d : Device) (k : ActionKind) (r : RingId) :
    Changes c d.dstate d (d.takeOutput k r) := by
  refine taking_changes d r _ _ fun a head d' hk hd ht => ?_
  simp only [Bool.and_eq_true] at hk
  have hrun : d'.dstate = .run := hd.trans (takeState_run d r hk.1 ht)
  unfold Device.intakeOutput
  split
  · split
    · exact answer_changes _ _ _ _
    · split
      · exact (addDeadline_changes _ _ _ hrun).then (enterTriggerWait_changes _ _ _ (by simpa using hrun))
      · exact (addDeadline_changes _ _ _ hrun).then (actionStage_changes _ _ (by simpa using hrun))
  · exact answer_changes _ _ _ _

theorem takeNote_changes (d : Device) (r : RingId) :
    Changes c d.dstate d (d.taking r (fun h => r != 0 && isActionKind .note h) Device.intakeNote) := by
  refine taking_changes d r _ _ fun a head d' hk hd ht => ?_
  simp only [Bool.and_eq_true] at hk
  have hrun : d'.dstate = .run := hd.trans (takeState_run d r hk.1 ht)
  unfold Device.intakeNote
  split
  · exact (addDeadline_changes _ _ _ hrun).then (enterTriggerWait_changes _ _ _ (by simpa using hrun))
  · exact answer_changes _ _ _ _

theorem takeKeepalive_changes (d : Device) (r : RingId) :
    Changes c d.dstate d (d.taking r (fun h => r != 0 && isActionKind .keepalive h) Device.intakeKeepalive) := by
  refine taking_changes d r _ _ fun a head d' hk hd ht => ?_
  simp only [Bool.and_eq_true] at hk
  have hrun : d'.dstate = .run := hd.trans (takeState_run d r hk.1 ht)
  unfold Device.intakeKeepalive
  split
  · split
    · exact (armCountdown_changes _ _ hrun).then (answer_changes _ _ _ _)
    · exact answer_changes _ _ _ _
    · exact answer_changes _ _ _ _
  · exact answer_changes _ _ _ _

theorem takeUnknown_changes (d : Device) (r : RingId) :
    Changes c d.dstate d (d.taking r (isUnknownKind r) Device.intakeUnknown) :=
  taking_changes d r _ _ fun _ _ _ _ _ _ => answer_changes _ _ _ _

theorem takeAdmin_changes (d : Device) (k : AdminKind) (execute : Slot → RawRecord → Device → Device)
    (h : ∀ a record d', d'.dstate = d.dstate → d'.adminPermitted k = true →
      Changes c d.dstate d' (execute a record d')) :
    Changes c d.dstate d (d.takeAdmin k execute) := by
  refine taking_changes d 0 _ _ fun a head d' _ hd _ => ?_
  split
  next hp => exact h a head d' hd hp
  · exact answer_changes _ _ _ _

theorem checked_changes {s0 : DState} (ok : RawRecord → Bool) (apply : RawRecord → Device → Device) (a : Slot)
    (record : RawRecord) (d : Device) (h : ok record = true → Changes c s0 d (apply record d)) :
    Changes c s0 d (d.checked ok apply a record) := by
  unfold Device.checked
  split
  next ho => exact (h ho).then (answer_changes _ _ _ _)
  · exact answer_changes _ _ _ _

/-! ## Admin records -/

theorem configureRing_changes (d : Device) : Changes c d.dstate d (d.takeAdmin .configureRing Device.doConfigureRing) := by
  refine takeAdmin_changes d _ _ fun a record d' hd hp => ?_
  unfold Device.doConfigureRing
  split
  next ho =>
    split
    next hs => exact (Change.one (.ringConfigured record ho (by simpa using hs))).then (answer_changes _ _ _ _)
    · exact answer_changes _ _ _ _
  · exact answer_changes _ _ _ _

theorem configureCompletion_changes (d : Device) :
    Changes c d.dstate d (d.takeAdmin .configureCompletion (Device.checked configureCompletionOk Device.setC1)) :=
  takeAdmin_changes d _ _ fun _ record _ _ _ => checked_changes _ _ _ _ _ fun ho =>
    Change.one (.c1Configured record ho)

theorem permitted_configure {d d' : Device} {k : AdminKind} (hd : d'.dstate = d.dstate)
    (hp : d'.adminPermitted k = true)
    (hk : k = .definePoint ∨ k = .defineInput ∨ k = .defineZone ∨ k = .defineGroup ∨ k = .setSupervision ∨
      k = .enterRun) : d.dstate = .configure ∧ d'.dstate = .configure := by
  have : d'.dstate = .configure := by
    obtain rfl | rfl | rfl | rfl | rfl | rfl := hk <;> simpa [Device.adminPermitted] using hp
  exact ⟨hd ▸ this, this⟩

theorem definePoint_changes (d : Device) :
    Changes .definePoint d.dstate d (d.takeAdmin .definePoint (Device.checked definePointOk Device.applyPoint)) :=
  takeAdmin_changes d _ _ fun _ _ _ hd hp => checked_changes _ _ _ _ _ fun _ =>
    Change.one (.pointDefined _ _ (permitted_configure hd hp (by simp)).1 rfl rfl rfl)

theorem defineInput_changes (d : Device) :
    Changes .defineInput d.dstate d (d.takeAdmin .defineInput (Device.checked defineInputOk Device.applyInput)) :=
  takeAdmin_changes d _ _ fun _ _ _ hd hp => checked_changes _ _ _ _ _ fun _ =>
    Change.one (.inputDefined _ _ (permitted_configure hd hp (by simp)).1 rfl rfl)

theorem defineZone_changes (d : Device) :
    Changes .defineZone d.dstate d (d.takeAdmin .defineZone (Device.checked defineZoneOk Device.applyZone)) :=
  takeAdmin_changes d _ _ fun _ _ _ hd hp => checked_changes _ _ _ _ _ fun _ =>
    Change.one (.zoneDefined _ _ (permitted_configure hd hp (by simp)).1 rfl)

theorem setSupervision_changes (d : Device) :
    Changes .setSupervision d.dstate d
      (d.takeAdmin .setSupervision (Device.checked (adminReservedOk .setSupervision) Device.applyInterval)) :=
  takeAdmin_changes d _ _ fun _ _ _ hd hp => checked_changes _ _ _ _ _ fun _ =>
    Change.one (.intervalDefined _ (permitted_configure hd hp (by simp)).1 rfl)

/-- The sixteen literal slots, one by one. -/
theorem groupLiterals_get (r : RawRecord) (s : Fin 16) : (groupLiterals r)[s] = slotLiteral r s.val := by
  fin_cases s <;> rfl

/-- A record that passes the order check names only lower groups (R82). -/
theorem gateOrderOk_lower (r : RawRecord) (h : gateOrderOk r = true) (hk : groupNumberOk r = true) (s : Fin 16)
    (g : Fin 8) (neg : Bool) (hl : (groupLiterals r)[s] = .gate g neg) : g.val < (groupIndexOf r).val + 1 := by
  rw [groupLiterals_get] at hl
  have := List.all_eq_true.mp h s.val (List.mem_range.mpr s.isLt)
  simp only [hl, decide_eq_true_eq] at this
  simp only [groupNumberOk, Bool.and_eq_true, decide_eq_true_eq] at hk
  simp only [groupIndexOf, Fin.val_ofNat]
  omega

theorem defineGroup_changes (d : Device) :
    Changes .defineGroup d.dstate d (d.takeAdmin .defineGroup Device.doDefineGroup) := by
  refine takeAdmin_changes d _ _ fun a record d' hd hp => ?_
  unfold Device.doDefineGroup
  split
  next ho =>
    split
    next hg =>
      have hk : groupNumberOk record = true := by
        simp only [defineGroupOk, Bool.and_eq_true] at ho; exact ho.1.1.2
      exact (Change.one (.groupDefined (groupIndexOf record)
        { d'.groups[groupIndexOf record] with terms := (byteAt record 5).toNat, lits := groupLiterals record }
        (permitted_configure hd hp (by simp)).1 rfl ⟨rfl, rfl, rfl⟩
        fun s g neg hl => gateOrderOk_lower record hg hk s g neg hl)).then (answer_changes _ _ _ _)
    · exact answer_changes _ _ _ _
  · exact answer_changes _ _ _ _

theorem enterRun_changes (d : Device) : Changes .enterRun d.dstate d (d.takeAdmin .enterRun Device.doEnterRun) := by
  refine takeAdmin_changes d _ _ fun a record d' hd hp => ?_
  obtain ⟨h1, h2⟩ := permitted_configure hd hp (by simp)
  unfold Device.doEnterRun
  repeat' split
  · exact answer_changes _ _ _ _
  · refine Changes.then ?_ (answer_changes _ _ _ _)
    exact (((Change.one (.runEntered h2 h1 rfl)).then (startSupervision_changes _ rfl)).then
      (closeGates_changes _)).then (pass_changes _)
  all_goals exact answer_changes _ _ _ _

theorem dropBuffers_changes {s0 : DState} (d : Device) (l : List RingId) :
    Changes c s0 d (l.foldl Device.dropBuffer d) :=
  Changes.fold _ (fun _ r => Change.one (.bufferDropped r)) _ _

/-- What the work's cancellation leaves: the device state, no point ON, no gate OPEN, supervision stopped. -/
theorem cancelWork_quiet (d : Device) :
    d.cancelWork.dstate = d.dstate ∧ (∀ p : PointId, d.cancelWork.points[p].level = false) ∧
      (∀ k : Fin 7, d.cancelWork.groups[k].gate = false) ∧ d.cancelWork.sup.supv = .off ∧
      d.cancelWork.sup.countdown = none := by
  refine ⟨?_, fun p => ?_, fun k => ?_, rfl, rfl⟩
  · unfold Device.cancelWork
    simp [foldl_dstate Device.dropBuffer (fun _ _ => rfl)]
  · unfold Device.cancelWork
    simp only [Device.closeGates_points, Device.stopSupervision_points, Device.allOff, Fin.getElem_fin,
      Vector.getElem_map]
    exact (Point.drive_config _ _ _).2.2.2.2.1
  · unfold Device.cancelWork Device.closeGates
    simp

theorem cancelWork_changes {s0 : DState} (d : Device) : Changes c s0 d d.cancelWork :=
  ((((dropBuffers_changes d actionRings).then (cancelActions_changes _ _)).then (allOff_changes _)).then
    (stopSupervision_changes _)).then (closeGates_changes _)

theorem enterConfigure_changes (d : Device) :
    Changes .enterConfigure d.dstate d (d.takeAdmin .enterConfigure Device.doEnterConfigure) := by
  refine takeAdmin_changes d _ _ fun a record d' hd hp => ?_
  have h2 : d'.dstate = .run := by simpa [Device.adminPermitted] using hp
  unfold Device.doEnterConfigure
  split
  · refine Changes.then ((setEntryState_changes d' a .adminActive).then ?_) (endOps_changes _)
    unfold Device.startDrain
    obtain ⟨w1, w2, w3, w4⟩ := cancelWork_quiet (d'.setEntryState a .adminActive)
    exact (cancelWork_changes _).then (Change.one (.drainBegun (by simp [w1, h2]) (hd ▸ h2) rfl w2 w3 w4))
  · exact answer_changes _ _ _ _

theorem forceGroup_changes (d : Device) :
    Changes .forceGroup d.dstate d (d.takeAdmin .forceGroup (Device.checked forceGroupOk Device.applyForce)) :=
  takeAdmin_changes d _ _ fun _ record d' _ _ => checked_changes _ _ _ _ _ fun _ => by
    unfold Device.applyForce
    exact (setGroup_changes d' (groupIndexOf record)
      { d'.groups[groupIndexOf record] with force := byteAt record 5 == 1 }
      ⟨rfl, rfl, Or.inr, .inr id, .inr rfl⟩).then (pass_changes _)

theorem restoreSupervision_changes (d : Device) :
    Changes c d.dstate d
      (d.takeAdmin .restoreSupervision (Device.checked (adminReservedOk .restoreSupervision) Device.applyRestore)) :=
  takeAdmin_changes d _ _ fun _ _ d' hd hp => checked_changes _ _ _ _ _ fun _ => by
    have h : d'.dstate = .run := by simpa [Device.adminPermitted] using hp
    unfold Device.applyRestore
    split
    · exact startSupervision_changes _ h
    · exact (startSupervision_changes _ h).then (pass_changes _)

theorem clearPointFault_changes (d : Device) :
    Changes .clearPointFault d.dstate d
      (d.takeAdmin .clearPointFault (Device.checked clearPointFaultOk Device.applyClearFault)) :=
  takeAdmin_changes d _ _ fun _ _ _ _ _ => checked_changes _ _ _ _ _ fun _ =>
    setPoint_changes _ _ _ ⟨rfl, rfl, rfl, by simp [Point.faultCleared], .inr (.inr (.inr rfl))⟩

theorem ringReset_changes (d : Device) : Changes c d.dstate d (d.takeAdmin .ringReset Device.doRingReset) := by
  refine takeAdmin_changes d _ _ fun a record d' hd hp => ?_
  unfold Device.doRingReset
  split
  next ho =>
    split
    next hs =>
      refine Changes.then ((setEntryState_changes d' a .adminActive).then ?_) (endOps_changes _)
      have hr : ringNumberOf record ≠ 0 := by
        simp only [ringResetOk, ringNumberOk, Bool.and_eq_true, decide_eq_true_eq] at ho
        intro e
        have := congrArg Fin.val e
        simp only [ringNumberOf, Fin.val_ofNat, Fin.val_zero] at this
        omega
      simp only [Bool.or_eq_true, beq_iff_eq] at hs
      exact (Change.one (.ringStopped _ _ _ hr (.inr rfl) (by simpa using hs))).then (cancelRing_changes _ _ _)
    · exact answer_changes _ _ _ _
  · exact answer_changes _ _ _ _

theorem snapWrite_changes {s0 : DState} (d : Device) (w : Option SnapWrite) :
    Changes c s0 d { d with snapWrite := w } :=
  Change.one (.registers d.alert d.control d.bootLo d.bootHi d.producerReg d.consumerReg d.bootRead w d.lastGrant
    d.link.messages)

theorem snapshot_changes (d : Device) : Changes c d.dstate d (d.takeAdmin .snapshot Device.doSnapshot) := by
  refine takeAdmin_changes d _ _ fun a record d' hd hp => ?_
  unfold Device.doSnapshot
  split
  · refine (setEntryState_changes d' a .adminActive).then ?_
    dsimp only
    split
    · exact snapWrite_changes _ _
    · exact answer_changes _ _ _ _
  · exact answer_changes _ _ _ _

theorem endSnapshot_changes (d : Device) (st : Status) : Changes c d.dstate d (d.endSnapshot st) := by
  unfold Device.endSnapshot
  split
  · exact event_changes _ _ ((snapWrite_changes _ _).then (answer_changes _ _ _ _))
  · exact .none

theorem digest_changes (d : Device) : Changes c d.dstate d (d.takeAdmin .digest Device.doDigest) := by
  refine takeAdmin_changes d _ _ fun a record d' hd hp => ?_
  unfold Device.doDigest
  split <;> exact answer_changes _ _ _ _

/-! ## Host writes and the boot -/

theorem registers_changes {s0 : DState} (d : Device) (alert control bootLo bootHi producerReg consumerReg : Word)
    (bootRead : Option BootRead) :
    Changes c s0 d { d with
      alert := alert, control := control, bootLo := bootLo, bootHi := bootHi, producerReg := producerReg,
      consumerReg := consumerReg, bootRead := bootRead } :=
  Change.one (.registers alert control bootLo bootHi producerReg consumerReg bootRead d.snapWrite d.lastGrant
    d.link.messages)

theorem beginBoot_changes (d : Device) (hd : d.dstate = .init) (hc : beginsBoot c = true) :
    Changes c d.dstate d d.beginBoot := by
  have hb : Changes c d.dstate d { d with dstate := .booting } := Change.one (.bootBegun hd hd hc)
  unfold Device.beginBoot
  split
  · split
    · exact hb.then (registers_changes _ d.alert d.control d.bootLo d.bootHi d.producerReg d.consumerReg _)
    · exact hb.then (Change.one (.halted _ (by simp) (by simp) (.inl ⟨.inl rfl, hd, hc⟩)))
  · exact hb.then (Change.one (.halted _ (by simp) (by simp) (.inl ⟨.inr rfl, hd, hc⟩)))

theorem writeControl_changes (d : Device) (v : Word) (hr : v.getLsbD 1 = false)
    (hc : v.getLsbD 0 = true → beginsBoot c = true) : Changes c d.dstate d (d.writeControl v) := by
  unfold Device.writeControl
  rw [hr, if_neg Bool.false_ne_true]
  refine event_changes _ _ ?_
  unfold Device.storeControl
  have hw : Changes c d.dstate d { d with control := v &&& controlStored } :=
    registers_changes d d.alert (v &&& controlStored) d.bootLo d.bootHi d.producerReg d.consumerReg d.bootRead
  split
  next h =>
    simp only [Bool.and_eq_true, beq_iff_eq] at h
    exact hw.then (beginBoot_changes { d with control := v &&& controlStored } h.1 (hc h.2))
  · exact hw

theorem writeBoot_changes {s0 : DState} (d : Device) (half : BootHalf) (v : Word) :
    Changes c s0 d (d.writeBoot half v) := by
  unfold Device.writeBoot
  split
  · split
    · exact registers_changes d d.alert d.control v d.bootHi d.producerReg d.consumerReg d.bootRead
    · exact registers_changes d d.alert d.control d.bootLo v d.producerReg d.consumerReg d.bootRead
  · exact .none

theorem writeAlert_changes {s0 : DState} (d : Device) (v : Word) : Changes c s0 d (d.writeAlert v) :=
  event_changes _ _
    (registers_changes d (d.alert &&& ~~~(d.alertCleared v)) d.control d.bootLo d.bootHi d.producerReg d.consumerReg
      d.bootRead)

theorem acceptProducer_changes {s0 : DState} (d : Device) (r : RingId) (v : Word) (h : indexField v < d.rings[r].size)
    (hb : d.rings[r].buf.length ≤ indexSub (indexField v) d.rings[r].tail d.rings[r].size) :
    Changes c s0 d (d.acceptProducer r v) :=
  (Change.one (.produced r _ h hb)).then
    (registers_changes _ d.alert d.control d.bootLo d.bootHi v d.consumerReg d.bootRead)

theorem producerEffect_changes {s0 : DState} (d : Device) (v : Word) : Changes c s0 d (d.producerEffect v) := by
  unfold Device.producerEffect
  split
  · split
    · unfold Device.producerAdmin
      split
      · exact discardIndex_changes d
      · split
        · exact discardIndex_changes d
        · exact acceptProducer_changes d _ _ (by omega) (by omega)
    · unfold Device.producerAction
      split
      · split
        · exact ringFault_changes _ _ _
        · split
          · exact ringFault_changes _ _ _
          · exact acceptProducer_changes d _ _ (by omega) (by omega)
      · exact discardIndex_changes d
  · exact discardIndex_changes d

theorem consumerTarget_ok (d : Device) (v : Word) (n : CRingId) (h : d.consumerTarget v = some n) :
    d.consumerOk n v = true := by
  unfold Device.consumerTarget at h
  repeat' split at h
  all_goals cases h
  assumption

theorem acceptConsumer_changes {s0 : DState} (d : Device) (n : CRingId) (v : Word) (h : d.consumerOk n v = true) :
    Changes c s0 d (d.acceptConsumer n v) := by
  refine Changes.then (d' := d.setCRing n (({ d.cring n with consumer := indexField v } : CRing).acknowledge d.now)) ?_
    (by cases n <;> exact registers_changes _ d.alert d.control d.bootLo d.bootHi d.producerReg v d.bootRead)
  have e : ∃ ic t, ({ d.cring n with consumer := indexField v } : CRing).acknowledge d.now =
      { d.cring n with consumer := indexField v, ic := ic, countdown := t } := by
    unfold CRing.acknowledge
    repeat' split
    · exact ⟨true, none, rfl⟩
    · exact ⟨false, _, rfl⟩
    · exact ⟨false, none, rfl⟩
  obtain ⟨ic, t, e⟩ := e
  rw [e]
  have h2 : Changes c s0 (d.setCRing n { d.cring n with consumer := indexField v }) _ :=
    Change.one (.cause n ic t)
  cases n <;> exact (Change.one (.consumed _ v h)).then h2

theorem writeConsumer_changes {s0 : DState} (d : Device) (v : Word) : Changes c s0 d (d.writeConsumer v) := by
  refine Changes.then (Changes.then ?_ (settle_changes _)) (signalRise_changes _ _ _)
  unfold Device.consumerEffect
  split
  next n hn => exact acceptConsumer_changes d n v (consumerTarget_ok d v n hn)
  · exact discardIndex_changes d

theorem writeRegister_changes (d : Device) (offset : BitVec 6) (width : Nat) (v : Word)
    (hr : resets (.registerWriteOther offset width v) = false) :
    Changes (.registerWriteOther offset width v) d.dstate d (d.writeRegister offset width v) := by
  unfold Device.writeRegister
  split
  next hw =>
    split
    next ho =>
      have ho' : offset = 0x04 := BitVec.eq_of_toNat_eq ho
      subst hw ho'
      simp only [resets, resetBit] at hr
      exact writeControl_changes d v (by simpa using hr)
        (fun h => by simp only [beginsBoot, resetBit]; simp_all)
    · exact writeAlert_changes d v
    · exact writeBoot_changes d .lo v
    · exact writeBoot_changes d .hi v
    · exact event_changes _ _ (producerEffect_changes d v)
    · exact writeConsumer_changes d v
    · exact .none
  · exact .none

theorem booting_of_booting? (d : Device) (op : BootRead) (h : d.booting? = some op) : d.dstate = .booting := by
  unfold Device.booting? at h
  split at h
  next hb => simpa using hb
  · cases h

theorem bootArrival_changes (d : Device) (b : BootBlock) :
    Changes (.bootReadArrival b) d.dstate d (d.bootArrival b) := by
  unfold Device.bootArrival
  split
  next op hop =>
    have hd := booting_of_booting? d op hop
    refine event_changes _ _ ?_
    split
    next hb => exact Change.one (.booted b hd hd rfl hb)
    next hb =>
      exact Change.one (.halted _ (by simp [hd]) (by simp [hd])
        (.inr (.inr (.inl ⟨rfl, hd, b, rfl, by simpa using hb⟩))))
  · exact .none

theorem bootFailure_changes (d : Device) (how : ReadFault) :
    Changes (.bootReadFailure how) d.dstate d (d.bootFailure how) := by
  unfold Device.bootFailure
  split
  next op hop =>
    have hd := booting_of_booting? d op hop
    split
    · exact event_changes _ _ (Change.one (.halted _ (by simp [hd]) (by simp [hd])
        (.inr (.inl ⟨rfl, hd, how, rfl⟩))))
    · exact .none
  · exact .none

/-! ## Timers, the field, supervision -/

theorem dueTimer_spec (d : Device) (t : TimerEntry) (rest : List TimerEntry) (h : d.dueTimer = some (t, rest)) :
    d.timing = t :: rest ∧ d.dstate = .run := by
  unfold Device.dueTimer at h
  split at h
  next t' rest' ht =>
    split at h
    next hc =>
      simp only [Option.some.injEq, Prod.mk.injEq] at h
      obtain ⟨rfl, rfl⟩ := h
      simp only [Bool.and_eq_true, beq_iff_eq] at hc
      exact ⟨ht, hc.2⟩
    · cases h
  · cases h

theorem finishTimed_changes {s0 : DState} (d : Device) (a : Slot) (e : Entry) (l : Bool) (h : d.dstate = .run) :
    Changes c s0 d (d.finishTimed a e l) :=
  ((driveLevel_changes d _ l fun _ => h).then (setClaim_changes _ _ _)).then (answer_changes _ _ _ _)

theorem stepBlink_changes {s0 : DState} (d : Device) (a : Slot) (e : Entry) (due : Time) (b : Blink)
    (h : d.dstate = .run) (he : d.slots[a] = some e) : Changes c s0 d (d.stepBlink a e due b) :=
  ((driveLevel_changes d _ _ fun _ => h).then (Change.one (.entryState a e _ he))).then (addTimer_changes _ _ h)

theorem expireOutput_changes {s0 : DState} (d : Device) (a : Slot) (due : Time) (h : d.dstate = .run) :
    Changes c s0 d (d.expireOutput a due) := by
  unfold Device.expireOutput
  split
  · exact .none
  next e he =>
    split
    · split
      · exact finishTimed_changes d a e _ h
      · exact finishTimed_changes d a e _ h
      · exact finishTimed_changes d a e _ h
      · unfold Device.expireBlink
        repeat' split
        · exact finishTimed_changes d a e _ h
        · exact stepBlink_changes d a e due _ h he
        · exact stepBlink_changes d a e due _ h he
      · exact .none
    · exact .none

theorem expireDeadline_changes {s0 : DState} (d : Device) (a : Slot) : Changes c s0 d (d.expireDeadline a) := by
  unfold Device.expireDeadline
  split
  · exact .none
  · split
    · exact (unwait_changes _ _).then (answer_changes _ _ _ _)
    · exact (unwait_changes _ _).then (answer_changes _ _ _ _)
    · exact .none

theorem pointFault_changes {s0 : DState} (d : Device) (p : PointId)
    (h : c = .settleWindowEnd p ∨ ∃ l, c = .senseChange p l) : Changes c s0 d (d.pointFault p) :=
  ((setPoint_changes d p { d.points[p] with pstate := .faulted, window := none, level := false }
    ⟨rfl, rfl, rfl, by simp, by tauto⟩).then (cancelClaim_changes _ _ _)).then (raiseAlert_changes _ _)

theorem windowEnds_changes {s0 : DState} (d : Device) (p : PointId) :
    Changes (.settleWindowEnd p) s0 d (d.windowEnds p) := by
  unfold Device.windowEnds
  split
  · exact pointFault_changes d p (.inl rfl)
  · exact setPoint_changes d p _ ⟨rfl, rfl, rfl, Or.inr, .inl rfl⟩

theorem senseChanges_changes {s0 : DState} (d : Device) (p : PointId) (l : Bool) :
    Changes (.senseChange p l) s0 d (d.senseChanges p l) := by
  unfold Device.senseChanges
  have h : Changes (.senseChange p l) s0 d (d.setPoint p { d.points[p] with sense := l }) :=
    setPoint_changes d p _ ⟨rfl, rfl, rfl, Or.inr, .inl rfl⟩
  dsimp only
  split
  · exact h.then (pointFault_changes _ p (.inr ⟨l, rfl⟩))
  · exact h

theorem releaseTrigger_changes {s0 : DState} (d : Device) (x : Time) (a : Slot) (h : d.dstate = .run) :
    Changes c s0 d (Device.releaseTrigger x d a) := by
  unfold Device.releaseTrigger
  split
  · exact .none
  · split
    · exact answer_changes _ _ _ _
    · exact actionStage_changes d a h

@[simp] theorem releaseTrigger_dstate (d : Device) (x : Time) (a : Slot) :
    (Device.releaseTrigger x d a).dstate = d.dstate := by
  unfold Device.releaseTrigger
  repeat' split
  all_goals simp

theorem releaseTriggers_changes {s0 : DState} (d : Device) (i : InputId) (rise : Bool) (x : Time)
    (h : d.dstate = .run) : Changes c s0 d (d.releaseTriggers i rise x) :=
  (setInput_changes d i
    { d.inputs[i] with waits := d.inputs[i].waits.filter (fun a => !slotMatches rise d.slots[a]) }
    ⟨rfl, rfl, .inl h⟩).then
    (Changes.foldRun _ (fun d a h => releaseTrigger_changes d x a h) (fun d a => releaseTrigger_dstate d x a) _ _ h)

theorem edge_changes {s0 : DState} (d : Device) (i : InputId) (x : Time) : Changes c s0 d (d.edge i x) := by
  unfold Device.edge
  have h : Changes c s0 d (d.setInput i (d.inputs[i].qualify x)) := setInput_changes d i _ ⟨rfl, rfl, .inr id⟩
  dsimp only
  split
  next hr =>
    have hr' : d.dstate = .run := by simpa using hr
    refine h.then ?_
    split
    · exact (pass_changes _).then (releaseTriggers_changes _ _ _ _ (by simpa using hr'))
    · exact releaseTriggers_changes _ _ _ _ hr'
  · exact h

theorem rawChange_changes {s0 : DState} (d : Device) (i : InputId) : Changes c s0 d (d.rawChange i) := by
  unfold Device.rawChange
  have h : Changes c s0 d (d.setInput i d.inputs[i].sample) := setInput_changes d i _ ⟨rfl, rfl, .inr id⟩
  dsimp only
  split
  · exact h.then (setInput_changes _ i _ ⟨rfl, rfl, .inr id⟩)
  · split
    · exact h.then (edge_changes _ _ _)
    · exact h.then (setInput_changes _ i _ ⟨rfl, rfl, .inr id⟩)

theorem lapse_changes {s0 : DState} (d : Device) (h : d.lapseDue = true) : Changes c s0 d d.lapse := by
  simp only [Device.lapseDue, Bool.and_eq_true, beq_iff_eq] at h
  exact ((Change.one (.supervision { d.sup with supv := .lapsed, countdown := none }
    ⟨rfl, .inr (.inl (by simp [h.1]))⟩)).then (raiseAlert_changes _ _)).then (pass_changes _)

/-! ## The bus -/

theorem delayExpires_changes {s0 : DState} (d : Device) (n : CRingId) : Changes c s0 d (d.delayExpires n) :=
  Change.one (.cause n true none)

theorem writeAccepted_changes {s0 : DState} (d : Device) (n : CRingId) (h : (d.cring n).inflight.isSome = true) :
    Changes c s0 d (d.writeAccepted n) := by
  refine Changes.then ?_ (endOps_changes _)
  have hf : Changes c s0 d (d.freeHead n) := by
    unfold Device.freeHead
    split
    · exact .none
    · exact freeSlot_changes _ _
  have e : (d.freeHead n).cring n = d.cring n ∧ (d.freeHead n).now = d.now := by
    unfold Device.freeHead
    split
    · exact ⟨rfl, rfl⟩
    · cases n <;> exact ⟨rfl, rfl⟩
  rw [← e.2, ← e.1]
  exact hf.then (Change.one (.writeAccepted n (by rw [e.1]; exact h)))

theorem arrive_changes {s0 : DState} (d : Device) (op : ReadOp) (records : List RawRecord) (hc : d.channel = some op)
    (hn : records.length = op.count) : Changes c s0 d (d.arrive op records) := by
  unfold Device.arrive
  dsimp only
  split
  · exact Change.one .readEnded
  next hd =>
    split
    · exact (Change.one .readEnded).then (ringFault_changes _ _ _)
    next ha => exact Change.one (.arrived op records hc (by simpa using hd) hn (by omega))

theorem failRead_changes {s0 : DState} (d : Device) (op : ReadOp) (how : ReadFault) :
    Changes (.readFailure how) s0 d (d.failRead op) := by
  unfold Device.failRead
  dsimp only
  split
  · exact Change.one .readEnded
  · exact (Change.one .readEnded).then (readFailed_changes _ _ (.inl ⟨how, rfl⟩))

/-! ## Every command -/

/-- A command that is no reset is a chain of small changes, and nothing stops it. -/
theorem exec_changes (c : Instr) (s : State) (hr : resets c = false) :
    ∃ d, exec c s = .next { s with dev := d } ∧ Changes c s.dev.dstate s.dev d := by
  cases c with
  | powerOnReset => cases hr
  | linkReset => cases hr
  | controlReset v | enable v | ic0en v | ic1en v | alerten v =>
    exact ⟨_, rfl, writeControl_changes _ v hr (by simp only [beginsBoot]; simp_all [resets])⟩
  | bootReadArrival b => exact ⟨_, rfl, bootArrival_changes _ b⟩
  | bootReadFailure how => exact ⟨_, rfl, bootFailure_changes _ how⟩
  | bootAddressWrite half v => exact ⟨_, rfl, writeBoot_changes _ half v⟩
  | alertWrite v => exact ⟨_, rfl, writeAlert_changes _ v⟩
  | producerWrite v => exact ⟨_, rfl, event_changes _ _ (producerEffect_changes _ v)⟩
  | consumerWrite v => exact ⟨_, rfl, writeConsumer_changes _ v⟩
  | registerWriteOther o w v => exact ⟨_, rfl, writeRegister_changes _ o w v hr⟩
  | set r | clear r | pulse r | delaySet r | delayClear r | blink r => exact ⟨_, rfl, takeOutput_changes _ _ r⟩
  | note r => exact ⟨_, rfl, takeNote_changes _ r⟩
  | keepalive r => exact ⟨_, rfl, takeKeepalive_changes _ r⟩
  | unknownKind r => exact ⟨_, rfl, takeUnknown_changes _ r⟩
  | configureRing => exact ⟨_, rfl, configureRing_changes _⟩
  | configureCompletion => exact ⟨_, rfl, configureCompletion_changes _⟩
  | definePoint => exact ⟨_, rfl, definePoint_changes _⟩
  | defineInput => exact ⟨_, rfl, defineInput_changes _⟩
  | defineZone => exact ⟨_, rfl, defineZone_changes _⟩
  | defineGroup => exact ⟨_, rfl, defineGroup_changes _⟩
  | setSupervision => exact ⟨_, rfl, setSupervision_changes _⟩
  | enterRun => exact ⟨_, rfl, enterRun_changes _⟩
  | enterConfigure => exact ⟨_, rfl, enterConfigure_changes _⟩
  | drainEnd | ringResetEnd =>
    refine ⟨_, rfl, ?_⟩
    dsimp only
    split
    · exact event_changes _ _ (endOps_changes _)
    · exact .none
  | forceGroup => exact ⟨_, rfl, forceGroup_changes _⟩
  | restoreSupervision => exact ⟨_, rfl, restoreSupervision_changes _⟩
  | clearPointFault => exact ⟨_, rfl, clearPointFault_changes _⟩
  | ringReset => exact ⟨_, rfl, ringReset_changes _⟩
  | snapshot => exact ⟨_, rfl, snapshot_changes _⟩
  | snapshotWriteAccepted | snapshotWriteFailed => exact ⟨_, rfl, endSnapshot_changes _ _⟩
  | digest => exact ⟨_, rfl, digest_changes _⟩
  | outputTimerExpiry =>
    refine ⟨_, rfl, ?_⟩
    dsimp only
    split
    next t rest ht =>
      obtain ⟨h1, h2⟩ := dueTimer_spec _ t rest ht
      split
      · exact event_changes _ _ ((Change.one (.timing rest (.inl h2))).then (expireOutput_changes _ _ _ h2))
      · exact .none
    · exact .none
  | deadlineExpiry =>
    refine ⟨_, rfl, ?_⟩
    dsimp only
    split
    next t rest ht =>
      obtain ⟨h1, h2⟩ := dueTimer_spec _ t rest ht
      split
      · exact event_changes _ _ ((Change.one (.timing rest (.inl h2))).then (expireDeadline_changes _ _))
      · exact .none
    · exact .none
  | settleWindowEnd p =>
    refine ⟨_, rfl, ?_⟩
    dsimp only
    split
    · exact event_changes _ _ (windowEnds_changes _ p)
    · exact .none
  | senseChange p l =>
    refine ⟨_, rfl, ?_⟩
    dsimp only
    split
    · exact .none
    · exact event_changes _ _ (senseChanges_changes _ p l)
  | rawTransition i =>
    refine ⟨_, rfl, ?_⟩
    dsimp only
    split
    · exact .none
    · exact event_changes _ _ (rawChange_changes _ i)
  | edgeEvent i =>
    refine ⟨_, rfl, ?_⟩
    dsimp only
    split
    · split
      · exact event_changes _ _ (edge_changes _ i _)
      · exact .none
    · exact .none
  | supervisionLapse =>
    refine ⟨_, rfl, ?_⟩
    dsimp only
    split
    next h => exact event_changes _ _ (lapse_changes _ h)
    · exact .none
  | coalescingDelayExpiry n =>
    refine ⟨_, rfl, ?_⟩
    dsimp only
    split
    · exact event_changes _ _ (delayExpires_changes _ n)
    · exact .none
  | completionWriteAccepted n =>
    refine ⟨_, rfl, ?_⟩
    dsimp only
    split
    next h => exact event_changes _ _ (writeAccepted_changes _ n h)
    · exact .none
  | completionWriteFailed n =>
    refine ⟨_, rfl, ?_⟩
    dsimp only
    split
    · exact event_changes _ _ (failCompletion_changes _ n (.inl rfl))
    · exact .none
  | readArrival records =>
    refine ⟨_, rfl, ?_⟩
    dsimp only
    split
    next op hop =>
      split
      next hn => exact event_changes _ _ (arrive_changes _ op records hop hn)
      · exact .none
    · exact .none
  | readFailure how =>
    refine ⟨_, rfl, ?_⟩
    dsimp only
    split
    · split
      · exact event_changes _ _ (failRead_changes _ _ how)
      · exact .none
    · exact .none

end Sys2Proof.Machine
end

