-- ==== Sys2Proof/Laws/Takings.lean ====
section
/-! SUPPORT. From a command's meaning to `Closes`: an event, a taking, an admin taking; and what the taking event leaves
readable. -/

namespace Sys2Proof.Machine

/-! ## The bus stays as it is -/

/-- No small change touches the link's own inputs. -/
theorem Change.busReady {c : Instr} {s0 : DState} {d d' : Device} (h : Change c s0 d d') :
    d'.busReady = d.busReady := by
  cases h
  case queue n _ => cases n <;> rfl
  case cause n _ _ => cases n <;> rfl
  case writeIssued n _ _ => cases n <;> rfl
  case writeAccepted n _ => cases n <;> rfl
  case consumed n _ _ => cases n <;> rfl
  all_goals rfl

/-- No chain of changes touches them. -/
theorem Changes.busReady {c : Instr} {s0 : DState} {d d' : Device} (h : Changes c s0 d d') :
    d'.busReady = d.busReady := by
  induction h with
  | refl => rfl
  | tail _ h ih => exact h.busReady.trans ih

@[simp] theorem answer_busReady (d : Device) (a : Slot) (st : Status) (x : Word) :
    (d.answer a st x).busReady = d.busReady := (answer_changes (c := .digest) (s0 := .run) d a st x).busReady

@[simp] theorem takeHead_busReady (d : Device) (r : RingId) (a : Slot) (h : RawRecord) (rest : List RawRecord) :
    (d.takeHead r a h rest).busReady = d.busReady := rfl

/-! ## Events that close -/

/-- An event closes as `closedFrom` says. -/
theorem closes_event {c : Instr} {s : State} {f : Device → Device} {x : Device}
    (hc : exec c s = .next { s with dev := s.dev.event f }) (hx : f s.dev = x) : Closes c s x := by
  unfold Closes
  rw [hc, event_eq_closedFrom, hx]

/-- Outside CONFIGURE, RUN and DRAINING no ring is granted the channel. -/
theorem arbiter_of_not_operational (d : Device) (ho : d.operational = false) : d.arbiter = none := by
  have hrun : (d.dstate == .run) = false := by
    unfold Device.operational at ho
    simp only [Bool.or_eq_false_iff] at ho
    exact ho.1.2
  refine List.find?_eq_none.mpr fun r _ => ?_
  unfold Device.requests Device.fetchState
  split <;> simp [ho, hrun]

/-- A block outside CONFIGURE, RUN and DRAINING with no write in flight issues nothing. -/
theorem settle_of_not_operational (d : Device) (ho : d.operational = false) : d.settle = d := by
  have hi (n : CRingId) : d.issue n = d := by
    unfold Device.issue Device.mayIssue
    rw [ho]
    split <;> simp
  have hg : d.grant = d := by
    unfold Device.grant
    rw [arbiter_of_not_operational d ho]
    cases d.channel <;> rfl
  have hs : d.service = d := by rw [Device.service, hi, hi, hg]
  have hn (n : Nat) : Device.serviceRounds n d = d := by
    induction n with
    | zero => rfl
    | succ n ih => rw [Device.serviceRounds, hs, ih]
  unfold Device.settle
  split
  · exact hs
  · exact hn 6

/-- So an event that leaves such a block changes no more than the count of messages. -/
theorem served_of_not_operational (d : Device) (ho : d.operational = false) : d.served = d := by
  rw [← settle_eq_served, settle_of_not_operational d ho]

/-! ## Takings -/

/-- A taking is its intake, closed. -/
theorem closes_taking {c : Instr} {s : State} {r : RingId} {head : RawRecord} {rest : List RawRecord} {a : Slot}
    {isKind : RawRecord → Bool} {intake : Slot → RawRecord → Device → Device} {x : Device}
    (hc : exec c s = .next { s with dev := s.dev.taking r isKind intake }) (ht : s.dev.Takes r head rest a)
    (hk : isKind head = true) (hx : intake a head (s.dev.takeHead r a head rest) = x) : Closes c s x := by
  refine closes_event (f := fun d => intake a head (d.takeHead r a head rest)) ?_ hx
  rw [hc]
  unfold Device.taking
  rw [show s.dev.taken? r = some (head, rest, a) from ht]
  simp only [hk, if_true]

/-- The taking command of an output kind runs its intake. -/
theorem closes_output {s : State} {k : ActionKind} {r : RingId} {head : RawRecord} {rest : List RawRecord} {a : Slot}
    {x : Device} (ht : s.dev.TakesAction k r head rest a) (hk : isOutputKind k = true)
    (hx : Device.intakeOutput k r a head (s.dev.takeHead r a head rest) = x) :
    Closes (actionCommand r (some k)) s x := by
  refine closes_taking (isKind := fun h => r != 0 && isActionKind k h) (intake := Device.intakeOutput k r) ?_ ht.1 ?_ hx
  · cases k
    case note => cases hk
    case keepalive => cases hk
    all_goals rfl
  · simp [isActionKind, ht.2.1, ht.2.2]

/-- An admin taking that is permitted executes its record. -/
theorem closes_admin {c : Instr} {s : State} {k : AdminKind} {head : RawRecord} {rest : List RawRecord} {a : Slot}
    {execute : Slot → RawRecord → Device → Device} {x : Device}
    (hc : exec c s = .next { s with dev := s.dev.takeAdmin k execute }) (ht : s.dev.TakesAdmin k head rest a)
    (hp : s.dev.adminPermitted k = true) (hx : execute a head (s.dev.takeHead 0 a head rest) = x) :
    Closes c s x := by
  refine closes_taking hc ht.1 ?_ ?_
  · simp [isAdminKind, ht.2]
  · have : (s.dev.takeHead 0 a head rest).adminPermitted k = true := hp
    simp only [this, if_true]
    exact hx

/-- The slot a taking fills. -/
@[simp] theorem takeHead_slot (d : Device) (r : RingId) (a : Slot) (head : RawRecord) (rest : List RawRecord) :
    (d.takeHead r a head rest).slots[a] = some (d.entryOf r head .intake) := by
  simp [Device.takeHead, Device.entryOf, Device.setSlot, Device.setRing]

@[simp] theorem takeHead_gateOpen (d : Device) (r : RingId) (a : Slot) (head : RawRecord) (rest : List RawRecord)
    (g : Fin 8) : (d.takeHead r a head rest).gateOpen g = d.gateOpen g := rfl

@[simp] theorem addDeadline_gateOpen (d : Device) (a : Slot) (record : RawRecord) (g : Fin 8) :
    (d.addDeadline a record).gateOpen g = d.gateOpen g := by
  unfold Device.addDeadline
  split <;> rfl

@[simp] theorem takeHead_zoneRefusal (d : Device) (r : RingId) (a : Slot) (head : RawRecord) (rest : List RawRecord)
    (q : RingId) (on : Bool) (p : PointId) :
    (d.takeHead r a head rest).zoneRefusal q on p = d.zoneRefusal q on p := rfl

/-- A timer inserted for an owner and withdrawn leaves no trace. -/
theorem filter_insertTimer (t : TimerEntry) (l : List TimerEntry) (a : Slot) (h : t.owner = a) :
    (insertTimer t l).filter (fun x => x.owner != a) = l.filter (fun x => x.owner != a) := by
  induction l with
  | nil => simp [insertTimer, h]
  | cons y ys ih =>
    unfold insertTimer
    split
    · simp [h]
    · simp only [List.filter_cons, ih]

/-- A deadline given in an event that answers its owner leaves no trace. -/
theorem withdraw_addDeadline (d : Device) (a : Slot) (record : RawRecord) :
    (d.addDeadline a record).withdraw a = d.withdraw a := by
  unfold Device.addDeadline
  split
  · rfl
  · exact congrArg (fun l => { d with timing := l })
      (filter_insertTimer ⟨a, .deadline, d.now + limitOf record⟩ d.timing a rfl)

end Sys2Proof.Machine
end

