-- ==== Sys2Proof/Tests/Slice0.lean ====
section
/-! SUPPORT. Tests on small states, and for every statement with hypotheses a named theorem that shows states and
operands which meet them. Expected values come from the data sheet's words and worked examples. -/

namespace Sys2Proof.Tests

set_option Elab.async false

open Sys2Proof Sys2Proof.Machine

/-! ## Small states and records -/

/-- A record from its first bytes, the rest zero. -/
def record (bytes : List Byte) : RawRecord :=
  bytes.foldr (fun (b : Byte) (r : RawRecord) => (r <<< 8) ||| b.setWidth 256) 0

/-- A bootstrap block from its first bytes, the rest zero. -/
def block (bytes : List Byte) : BootBlock :=
  bytes.foldr (fun (b : Byte) (r : BootBlock) => (r <<< 8) ||| b.setWidth 512) 0

/-- The device the block leaves, if it goes on. -/
def after (o : Host.Outcome State Fault Refusal) : Option Device :=
  match o with
  | .next t => some t.dev
  | _ => none

/-- An ACTIVE action ring with nothing in it. -/
def openRing : Ring := { Ring.atReset with state := .active }

/-- An ACTIVE completion ring with nothing in it. -/
def openCRing : CRing := { CRing.atReset with state := .active }

/-- A zone that grants every ring everything on all points. -/
def openZone : Zone := { en := true, base := 0, size := 64, rings := 15, onok := true, offok := true }

/-- RUN at time 1000, every ring ACTIVE, everything granted. -/
def running : Device :=
  { State.reset.dev with
    dstate := .run, now := 1000, rings := Vector.replicate 5 openRing, c0 := openCRing, c1 := openCRing,
    zones := State.reset.dev.zones.set 0 openZone }

/-- The same in CONFIGURE. -/
def configuring : Device := { running with dstate := .configure }

/-- A state with one record at the head of a ring's buffer. -/
def offers (d : Device) (r : RingId) (head : RawRecord) : State :=
  ⟨d.setRing r { d.rings[r] with buf := [head], producer := (d.rings[r].tail + 1) % 16 }, []⟩

/-- The record of a completion write that waits for acceptance on C0, as STATUS and DETAIL. -/
def answer0 (d : Device) : Option (Byte × Word) :=
  d.c0.inflight.map (fun w => (byteAt w.record 3, wordAt w.record 12))

/-- An entry of ring `r` in a state. -/
def entry (r : RingId) (head : RawRecord) (st : EntryState) : Entry := { ring := r, pos := 0, record := head, st := st }

/-- A device with an entry in a slot. -/
def holds (d : Device) (a : Slot) (e : Entry) : Device := d.setSlot a (some e)

/-- A device whose link cannot carry a bus-master operation. -/
def cut (d : Device) : Device := { d with link := { d.link with master := false } }

/-- A device in INIT with a boot address. -/
def initial (lo : Word) : Device := { State.reset.dev with bootLo := lo }

/-- A device that waits for its boot read. -/
def booting : Device := { State.reset.dev with dstate := .booting, bootRead := some ⟨0x1000, 0⟩ }

/-- A good bootstrap block: ring 0 of 100 records at 2000h, C0 of 16 at 4000h, THRESH 1, DELAY 2. -/
def goodBlock : BootBlock :=
  block ([1, 0, 0, 0, 0, 0, 0, 0, 0, 0x20, 0, 0, 0, 0, 0, 0, 100, 0, 0, 0, 0, 0, 0, 0] ++
    [0, 0x40, 0, 0, 0, 0, 0, 0, 16, 0, 1, 2])

/-! ## Well-formed commands -/

theorem test_wf_control_reset_without_reset : Instr.wf (.controlReset 0x1D) = false := by decide +kernel

theorem test_wf_enable_with_reset : Instr.wf (.enable 0x03) = false := by decide +kernel

theorem test_wf_ic0en_with_reset : Instr.wf (.ic0en 0x06) = false := by decide +kernel

theorem test_wf_ic1en_with_reset : Instr.wf (.ic1en 0x0A) = false := by decide +kernel

theorem test_wf_alerten_with_reset : Instr.wf (.alerten 0x12) = false := by decide +kernel

theorem test_wf_write_of_three_bytes : Instr.wf (.registerWriteOther 0x00 3 0) = false := by decide +kernel

theorem test_wf_write_unaligned : Instr.wf (.registerWriteOther 0x01 2 0) = false := by decide +kernel

theorem test_wf_full_write_of_another_row : Instr.wf (.registerWriteOther 0x1C 4 0) = false := by decide +kernel

theorem test_wf_other_writes :
    Instr.wf (.registerWriteOther 0x1D 1 0) = true ∧ Instr.wf (.registerWriteOther 0x24 4 0) = true := by
  decide +kernel

theorem test_wf_actions_of_ring_zero :
    [Instr.set 0, .clear 0, .pulse 0, .delaySet 0, .delayClear 0, .blink 0, .note 0, .keepalive 0].all (!·.wf) =
      true := by
  decide +kernel

theorem test_wf_actions_of_ring_four :
    [Instr.set 4, .clear 4, .pulse 4, .delaySet 4, .delayClear 4, .blink 4, .note 4, .keepalive 4].all (·.wf) =
      true := by
  decide +kernel

theorem test_wf_read_of_none_or_nine :
    [0, 9].all (fun n => !Instr.wf (.readArrival (List.replicate n 0))) = true := by
  decide +kernel

theorem test_wf_read_of_eight : Instr.wf (.readArrival (List.replicate 8 0)) = true := by decide +kernel

theorem test_no_word_spells_a_command :
    decodeTableWord 32 0x12345678 = none ∧ State.reset.withFetchWord 32 5 = State.reset := by
  decide +kernel

/-! ## Worked values of the data sheet -/

/-- The check value of CRC-32 with R188's parameters, over the bytes of "123456789". -/
theorem test_crc_check_value : crc32 [0x31, 0x32, 0x33, 0x34, 0x35, 0x36, 0x37, 0x38, 0x39] =
  0xCBF43926 := by decide +kernel

theorem test_time_order_wraps :
    timeBefore 0xFFFFFFFF 0 = true ∧ timeBefore 0 0xFFFFFFFF = false ∧ timeReached 7 7 = true := by
  decide +kernel

theorem test_units : [0, 1, 2, 3].map (fun c => unitTicks c) = [10, 100, 1000, 10000] := by decide +kernel

/-- R142's example. -/
theorem test_turn_after_ring_two : turnOrder 2 = [3, 4, 1, 2] := by decide +kernel

/-- R64's longest duration. -/
theorem test_longest_duration : durationOf (record [3, 0, 0, 0, 0, 3, 0xFF, 0xFF, 0]) = 655350000 := by decide +kernel

theorem test_status_register :
    (({ running with c1 := { openCRing with ic := true } } : Device).readRegister 0x08) = 0x2003 := by
  decide +kernel

theorem test_snapshot_image_length : running.snapshotImage.length = 256 := by decide +kernel

/-! ## One step of each command -/

theorem test_power_on_reset :
    (after (exec (.powerOnReset) ⟨{ running with alert := 1 }, []⟩)).map
        (fun d => (d.dstate, d.rcause, d.alert, d.now)) =
      some (.init, .powerOn, 0, 0) := by
  decide +kernel

theorem test_link_reset :
    (after (exec (.linkReset) ⟨running, []⟩)).map
        (fun d => (d.dstate, d.rcause, d.zones)) =
      some (.init, .link, Vector.replicate 8 Zone.atReset) := by
  decide +kernel

theorem test_control_reset :
    (after (exec (.controlReset 0x1F) ⟨running, []⟩)).map
        (fun d => (d.dstate, d.rcause, d.control)) =
      some (.init, .control, 0) := by
  decide +kernel

theorem test_enable :
    (after (exec (.enable 1) ⟨initial 0x1000, []⟩)).map
        (fun d => (d.dstate, d.bootRead)) =
      some (.booting, some ⟨0x1000, 0⟩) := by
  decide +kernel

theorem test_enable_misaligned :
    (after (exec (.enable 1) ⟨initial 0x1020, []⟩)).map
        (fun d => (d.dstate, d.hreason)) =
      some (.halted, .bootbad) := by
  decide +kernel

theorem test_ic0en :
    (after (exec (.ic0en 0xFFFFFFE4) ⟨running, []⟩)).map
        (fun d => d.control) =
      some 4 := by
  decide +kernel

theorem test_ic1en :
    (after (exec (.ic1en 0x09) ⟨running, []⟩)).map
        (fun d => (d.control, d.dstate)) =
      some (9, .run) := by
  decide +kernel

theorem test_alerten :
    (after (exec (.alerten 0x10) ⟨{ running with alert := 1 }, []⟩)).map
        (fun d => (d.request, d.link.messages)) =
      some (true, 0) := by
  decide +kernel

theorem test_boot_read_arrival :
    (after (exec (.bootReadArrival goodBlock) ⟨booting, []⟩)).map
        (fun d => (d.dstate, d.rings[(0 : RingId)].size, d.rings[(0 : RingId)].base, d.c0.base, d.c0.delay)) =
      some (.configure, 100, 0x2000, 0x4000, 2) := by
  decide +kernel

theorem test_boot_read_failure :
    (after (exec (.bootReadFailure .error) ⟨booting, []⟩)).map
        (fun d => (d.dstate, d.hreason, d.alert)) =
      some (.halted, .bootflt, 0x100) := by
  decide +kernel

theorem test_boot_address_write :
    (after (exec (.bootAddressWrite .hi 7) ⟨initial 0x40, []⟩)).map
        (fun d => d.bootAddress) =
      some 0x700000040 := by
  decide +kernel

theorem test_alert_write :
    (after (exec (.alertWrite 0x140) ⟨{ running with dstate := .halted, alert := 0x141 }, []⟩)).map
        (fun d => d.alert) =
      some 0x101 := by
  decide +kernel

theorem test_producer_write :
    (after (exec (.producerWrite 0x10006) ⟨running.setRing 1 { openRing with base := 0x1000, tail := 4, producer := 4 }, []⟩)).map
        (fun d => (d.rings[(1 : RingId)].producer, d.channel)) =
      some (6, some ⟨1, 4, 2, 0x1080, 64, false, 1000⟩) := by
  decide +kernel

theorem test_producer_write_bad_index :
    (after (exec (.producerWrite 0x40010) ⟨running, []⟩)).map
        (fun d => (d.rings[(4 : RingId)].state, d.rings[(4 : RingId)].cause, d.alert)) =
      some (.faulted, .badprod, 0x10) := by
  decide +kernel

theorem test_consumer_write :
    (after (exec (.consumerWrite 0x10002) ⟨{ running with c1 := { openCRing with producer := 3, ic := true } }, []⟩)).map
        (fun d => (d.c1.consumer, d.c1.ic)) =
      some (2, true) := by
  decide +kernel

theorem test_consumer_write_too_far :
    (after (exec (.consumerWrite 0x10004) ⟨{ running with c1 := { openCRing with producer := 3 } }, []⟩)).map
        (fun d => (d.c1.consumer, d.alert)) =
      some (0, 0x80) := by
  decide +kernel

theorem test_register_write_other :
    (after (exec (.registerWriteOther 0x1C 2 1) ⟨running, []⟩)).map
        (fun d => d) =
      some running := by
  decide +kernel

/-- SET of point 3, tag BEEFh. -/
def setRecord : RawRecord := record [1, 0, 0xEF, 0xBE, 3]

/-- PULSE of point 3 for 5 x 100 us. -/
def pulseRecord : RawRecord := record [3, 0, 0, 0, 3, 0, 5, 0]

/-- BLINK of point 3, 3 cycles of 5 x 100 us a phase. -/
def blinkRecord : RawRecord := record [6, 0, 0, 0, 3, 0, 5, 0, 3]

/-- NOTE on a rise of input 31. -/
def noteRecord : RawRecord := record [7, 8, 0, 0, 31, 0, 0, 0, 0, 31, 1]

/-- The completion record of 12.3: TAG, RING and PHASE, STATUS, POS 0, TAIL 1, TIME 1000, DETAIL 0. -/
theorem test_set :
    (after (exec (.set 1) (offers running 1 setRecord))).map
        (fun d => (d.points[(3 : PointId)].level, d.rings[(1 : RingId)].tail, d.c0.queue, d.c0.inflight.map (fun w => w.record))) =
      some (true, 1, [0], some 0x00000000000003E8000100000081BEEF) := by
  decide +kernel

theorem test_clear :
    (after (exec (.clear 4) (offers (running.driveLevel 63 true) 4 (record [2, 0, 0, 0, 63])))).map
        (fun d => (d.points[(63 : PointId)].level, answer0 d)) =
      some (false, some (0, 0)) := by
  decide +kernel

theorem test_pulse :
    (after (exec (.pulse 1) (offers running 1 pulseRecord))).map
        (fun d => (d.points[(3 : PointId)].level, d.points[(3 : PointId)].claim, d.timing)) =
      some (true, some 0, [⟨0, .outputTimer, 1050⟩]) := by
  decide +kernel

theorem test_delay_set :
    (after (exec (.delaySet 2) (offers running 2 (record [4, 0, 0, 0, 3, 1, 1, 0])))).map
        (fun d => (d.points[(3 : PointId)].level, d.points[(3 : PointId)].claim, d.timing)) =
      some (false, some 0, [⟨0, .outputTimer, 1100⟩]) := by
  decide +kernel

theorem test_delay_clear :
    (after (exec (.delayClear 2) (offers (running.driveLevel 3 true) 2 (record [5, 0, 0, 0, 3, 1, 1, 0])))).map
        (fun d => (d.points[(3 : PointId)].level, d.points[(3 : PointId)].claim)) =
      some (true, some 0) := by
  decide +kernel

theorem test_blink :
    (after (exec (.blink 1) (offers running 1 blinkRecord))).map
        (fun d => d.slots[(0 : Slot)]) =
      some (some (entry 1 blinkRecord (.timed (some ⟨true, 3⟩)))) := by
  decide +kernel

theorem test_note :
    (after (exec (.note 3) (offers running 3 noteRecord))).map
        (fun d => (d.inputs[(31 : InputId)].waits, answer0 d)) =
      some ([0], none) := by
  decide +kernel

theorem test_keepalive :
    (after (exec (.keepalive 1) (offers { running with sup := ⟨10, .ok, some 1001⟩ } 1 (record [8])))).map
        (fun d => (d.sup.countdown, answer0 d)) =
      some (some 2000, some (0, 0)) := by
  decide +kernel

theorem test_unknown_kind :
    (after (exec (.unknownKind 1) (offers running 1 (record [0x10])))).map
        (fun d => (answer0 d, d.slots[(0 : Slot)].isSome)) =
      some (some (1, 0), true) := by
  decide +kernel

/-- CONFIGURE_RING of ring 4: bound to C1, quota 60, size 4096, base 1_0000_0040h. -/
def ringRecord : RawRecord :=
  record [0x10, 0, 0, 0, 4, 1, 60, 0, 0, 0x10, 0, 0, 0, 0, 0, 0, 0x40, 0, 0, 0, 1]

/-- CONFIGURE_COMPLETION of C1: THRESH 15, DELAY 255, size 16, base 0. -/
def completionRecordC1 : RawRecord := record [0x11, 0, 0, 0, 1, 15, 255, 0, 16]

/-- DEFINE_POINT of point 63: group 7, HELD, READBACK on. -/
def pointRecord : RawRecord := record [0x12, 0, 0, 0, 63, 7, 1, 1]

/-- DEFINE_INPUT of input 31: DEBOUNCE 255, INVERT on. -/
def inputRecord : RawRecord := record [0x13, 0, 0, 0, 31, 255, 1]

/-- DEFINE_ZONE of zone 7: points 62 and 63, ring 4, off-effects alone. -/
def zoneRecord : RawRecord := record [0x14, 0, 0, 0, 7, 1, 62, 2, 8, 0, 1]

/-- DEFINE_GROUP of group 7: one term, not IN31 and G6 and SUPOK. -/
def groupRecord : RawRecord := record [0x15, 0, 0, 0, 7, 1, 0xBF, 0x46, 0x60]

/-- DEFINE_GROUP of group 7 with a literal of its own gate. -/
def selfGroupRecord : RawRecord := record [0x15, 0, 0, 0, 7, 1, 0x47]

/-- RING_RESET of a ring, with or without DISABLE. -/
def resetRecord (r disable : Byte) : RawRecord := record [0x1C, 0, 0, 0, r, disable]

/-- CONFIGURE with one action ring's state set. -/
def withRing (d : Device) (r : RingId) (st : RingState) : Device := d.setRing r { d.rings[r] with state := st }

/-- DRAINING with the ENTER_CONFIGURE in slot 60. -/
def draining : Device :=
  holds { running with dstate := .draining } 60 (entry 0 (record [0x18]) .adminActive)

/-- A ring reset of ring 1 that waits in slot 60. -/
def resetting (disable : Byte) : Device :=
  holds (withRing running 1 .resetting) 60 (entry 0 (resetRecord 1 disable) .adminActive)

/-- A snapshot that waits for its write. -/
def snapping : Device :=
  holds { running with snapWrite := some ⟨0x80, []⟩ } 60 (entry 0 (record [0x1D]) .adminActive)

theorem test_configure_ring :
    (after (exec (.configureRing) (offers (withRing configuring 4 .disabled) 0 ringRecord))).map
        (fun d => (d.rings[(4 : RingId)].state, d.rings[(4 : RingId)].base, d.rings[(4 : RingId)].size, d.rings[(4 : RingId)].bound,
      d.rings[(4 : RingId)].quota)) =
      some (.active, 0x100000040, 4096, .c1, 60) := by
  decide +kernel

theorem test_configure_completion :
    (after (exec (.configureCompletion) (offers configuring 0 completionRecordC1))).map
        (fun d => (d.c1.state, d.c1.size, d.c1.thresh, d.c1.delay, d.c1.phase)) =
      some (.active, 16, 15, 255, true) := by
  decide +kernel

theorem test_define_point :
    (after (exec (.definePoint) (offers configuring 0 pointRecord))).map
        (fun d => (d.points[(63 : PointId)].group, d.points[(63 : PointId)].mode, d.points[(63 : PointId)].window)) =
      some (7, .held, some 1200) := by
  decide +kernel

theorem test_define_input :
    (after (exec (.defineInput) (offers configuring 0 inputRecord))).map
        (fun d => (d.inputs[(31 : InputId)].debounce, d.inputs[(31 : InputId)].raw, d.inputs[(31 : InputId)].qualified)) =
      some (255, true, true) := by
  decide +kernel

theorem test_define_zone :
    (after (exec (.defineZone) (offers configuring 0 zoneRecord))).map
        (fun d => d.zones[(7 : Fin 8)]) =
      some { en := true, base := 62, size := 2, rings := 8, onok := false, offok := true } := by
  decide +kernel

theorem test_define_group :
    (after (exec (.defineGroup) (offers configuring 0 groupRecord))).map
        (fun d => (d.groups[(6 : Fin 7)].terms, d.groups[(6 : Fin 7)].lits.toList.take 4)) =
      some (1, [.input 31 true, .gate 6 false, .supok false, .unused]) := by
  decide +kernel

theorem test_define_group_order :
    (after (exec (.defineGroup) (offers configuring 0 selfGroupRecord))).map
        (fun d => (d.groups[(6 : Fin 7)].terms, answer0 d)) =
      some (0, some (0x24, 0)) := by
  decide +kernel

theorem test_set_supervision :
    (after (exec (.setSupervision) (offers configuring 0 (record [0x16, 0, 0, 0, 0xE8, 3])))).map
        (fun d => (d.sup.interval, d.sup.supv)) =
      some (1000, .off) := by
  decide +kernel

theorem test_enter_run :
    (after (exec (.enterRun) (offers { configuring with sup := ⟨10, .off, none⟩ } 0 (record [0x17])))).map
        (fun d => (d.dstate, d.sup.supv, d.sup.countdown)) =
      some (.run, .ok, some 2000) := by
  decide +kernel

theorem test_enter_configure :
    (after (exec (.enterConfigure) (offers (holds ((running.driveLevel 3 true).setClaim 3 (some 7)) 7 (entry 1 pulseRecord (.timed none)))
      0 (record [0x18])))).map
        (fun d => (d.dstate, d.points[(3 : PointId)].level, d.points[(3 : PointId)].claim, answer0 d)) =
      some (.draining, false, none, some (0x0C, 0)) := by
  decide +kernel

theorem test_drain_end :
    (after (exec (.drainEnd) ⟨draining, []⟩)).map
        (fun d => (d.dstate, answer0 d)) =
      some (.configure, some (0, 0)) := by
  decide +kernel

theorem test_force_group :
    (after (exec (.forceGroup) (offers (running.setGroup 6 { Group.atReset with gate := true }) 0 (record [0x19, 0, 0, 0, 7, 1])))).map
        (fun d => (d.groups[(6 : Fin 7)].force, d.groups[(6 : Fin 7)].gate)) =
      some (true, false) := by
  decide +kernel

theorem test_restore_supervision :
    (after (exec (.restoreSupervision) (offers { running with sup := ⟨10, .lapsed, none⟩ } 0 (record [0x1A])))).map
        (fun d => (d.sup.supv, d.sup.countdown)) =
      some (.ok, some 2000) := by
  decide +kernel

theorem test_clear_point_fault :
    (after (exec (.clearPointFault) (offers (running.setPoint 63 { Point.atReset true with readback := true, pstate := .faulted }) 0
      (record [0x1B, 0, 0, 0, 63])))).map
        (fun d => (d.points[(63 : PointId)].pstate, d.points[(63 : PointId)].window)) =
      some (.normal, some 1200) := by
  decide +kernel

theorem test_ring_reset :
    (after (exec (.ringReset) (offers (holds running 7 (entry 1 noteRecord .triggerWait)) 0 (resetRecord 1 0)))).map
        (fun d => (d.rings[(1 : RingId)].state, answer0 d)) =
      some (.resetting, some (0x0D, 0)) := by
  decide +kernel

theorem test_ring_reset_end :
    (after (exec (.ringResetEnd) ⟨resetting 1, []⟩)).map
        (fun d => (d.rings[(1 : RingId)].state, answer0 d)) =
      some (.disabled, some (0, 0)) := by
  decide +kernel

theorem test_snapshot :
    (after (exec (.snapshot) (offers running 0 (record [0x1D, 0, 0, 0, 0, 0, 0, 0, 0x80])))).map
        (fun d => (d.snapWrite.map (fun w => (w.addr, w.image.length, w.image.take 5)), answer0 d)) =
      some (some (0x80, 256, [0xE8, 3, 0, 0, 3]), none) := by
  decide +kernel

theorem test_snapshot_write_accepted :
    (after (exec (.snapshotWriteAccepted) ⟨snapping, []⟩)).map
        (fun d => (d.snapWrite, answer0 d)) =
      some (none, some (0, 0)) := by
  decide +kernel

theorem test_snapshot_write_failed :
    (after (exec (.snapshotWriteFailed) ⟨snapping, []⟩)).map
        (fun d => (d.snapWrite, answer0 d)) =
      some (none, some (0x25, 0)) := by
  decide +kernel

theorem test_digest :
    (after (exec (.digest) (offers running 0 (record [0x1E])))).map
        (fun d => (d.slots[(60 : Slot)].map (fun e => e.isLive), d.c0.queue)) =
      some (some false, [60]) := by
  decide +kernel

/-- RUN with an entry in slot 0 that a timer owns, due now. -/
def timing (k : TimerKind) (st : EntryState) (head : RawRecord) : Device :=
  holds (({ running with timing := [⟨0, k, 1000⟩] } : Device).setClaim 3 (some 0)) 0 (entry 1 head st)

/-- RUN with point 63 read back, its window and sense line as given. -/
def readback (window : Option Time) (sense : Bool) : Device :=
  running.setPoint 63 { Point.atReset sense with readback := true, window := window }

/-- RUN with a pending transition of input 31, begun 255 ms before `late`, DEBOUNCE 255, and a NOTE that waits. -/
def edging (since : Time) : Device :=
  holds
    (running.setInput 31
      { Input.atReset true with debounce := 255, qualified := false, pendingSince := some since, waits := [0] }) 0
    (entry 1 noteRecord .triggerWait)

/-- C1 with a write in flight for the entry in slot 0, which is of ring 2. -/
def writing (c : CRing) : Device :=
  holds
    { running with
      c1 := { c with queue := [0], inflight := some ⟨c.producer, 0, 0⟩ }
      rings := running.rings.set 2 { openRing with bound := .c1 } } 0
    (entry 2 noteRecord (.answered ⟨.done, 0, 900⟩))

/-- A read of two records of a ring in flight. -/
def reading (r : RingId) (discard : Bool) (producer : Nat) : Device :=
  ({ running with channel := some ⟨r, 0, 2, 0, 64, discard, 600⟩ } : Device).setRing r { openRing with producer := producer }

theorem test_output_timer_expiry :
    (after (exec (.outputTimerExpiry) ⟨(timing .outputTimer (.timed none) pulseRecord).driveLevel 3 true, []⟩)).map
        (fun d => (d.points[(3 : PointId)].level, d.timing, answer0 d)) =
      some (false, [], some (0, 0)) := by
  decide +kernel

/-- R13's example: the first step leaves 2 remaining, the next due d later. -/
theorem test_output_timer_expiry_blink :
    (after (exec (.outputTimerExpiry) ⟨timing .outputTimer (.timed (some ⟨true, 3⟩)) blinkRecord, []⟩)).map
        (fun d => (d.slots[(0 : Slot)], d.timing)) =
      some (some (entry 1 blinkRecord (.timed (some ⟨false, 2⟩))), [⟨0, .outputTimer, 1050⟩]) := by
  decide +kernel

theorem test_deadline_expiry :
    (after (exec (.deadlineExpiry) ⟨(timing .deadline .gateWait setRecord).setPoint 3 { Point.atReset false with group := 7 }, []⟩)).map
        (fun d => (d.timing, answer0 d)) =
      some ([], some (8, 7)) := by
  decide +kernel

theorem test_settle_window_end :
    (after (exec (.settleWindowEnd 63) ⟨readback (some 1000) true, []⟩)).map
        (fun d => (d.points[(63 : PointId)].pstate, d.alert)) =
      some (.faulted, 0x40) := by
  decide +kernel

theorem test_sense_change :
    (after (exec (.senseChange 63 true) ⟨readback (some 1001) false, []⟩)).map
        (fun d => (d.points[(63 : PointId)].pstate, d.points[(63 : PointId)].sense)) =
      some (.normal, true) := by
  decide +kernel

theorem test_raw_transition :
    (after (exec (.rawTransition 31) ⟨running, []⟩)).map
        (fun d => (d.inputs[(31 : InputId)].qualified, d.inputs[(31 : InputId)].capture)) =
      some (true, 1000) := by
  decide +kernel

/-- R100: one sample of a pin at one tick. -/
theorem test_raw_transition_once_per_tick :
    (after (exec (.rawTransition 31) ⟨running.setInput 31 { Input.atReset true with moved := true }, []⟩)).map
        (fun d => (d.inputs[(31 : InputId)].pin, d.tick.inputs[(31 : InputId)].moved)) =
      some (true, false) := by
  decide +kernel

theorem test_edge_event :
    (after (exec (.edgeEvent 31) ⟨{ edging 7 with now := 25507 }, []⟩)).map
        (fun d => (d.inputs[(31 : InputId)].waits, answer0 d)) =
      some ([], some (0, 7)) := by
  decide +kernel

theorem test_supervision_lapse :
    (after (exec (.supervisionLapse) ⟨{ running with sup := ⟨10, .ok, some 1000⟩ }, []⟩)).map
        (fun d => (d.sup.supv, d.alert)) =
      some (.lapsed, 1) := by
  decide +kernel

theorem test_coalescing_delay_expiry :
    (after (exec (.coalescingDelayExpiry .c1) ⟨{ running with c1 := { openCRing with countdown := some 1000 } }, []⟩)).map
        (fun d => (d.c1.ic, d.c1.countdown)) =
      some (true, none) := by
  decide +kernel

theorem test_completion_write_accepted :
    (after (exec (.completionWriteAccepted .c1) ⟨writing { openCRing with producer := 15, consumer := 15, thresh := 2, delay := 3 }, []⟩)).map
        (fun d => (d.c1.producer, d.c1.phase, d.c1.ic, d.c1.countdown, d.slots[(0 : Slot)])) =
      some (0, false, false, some 1030, none) := by
  decide +kernel

theorem test_completion_write_failed :
    (after (exec (.completionWriteFailed .c1) ⟨writing openCRing, []⟩)).map
        (fun d => (d.c1.state, d.rings[(2 : RingId)].state, d.rings[(2 : RingId)].cause, d.alert)) =
      some (.faulted, .faulted, .cqflt, 0x24) := by
  decide +kernel

theorem test_read_arrival :
    (after (exec (.readArrival [setRecord, pulseRecord]) ⟨reading 1 false 2, []⟩)).map
        (fun d => (d.channel, d.rings[(1 : RingId)].buf)) =
      some (none, [setRecord, pulseRecord]) := by
  decide +kernel

theorem test_read_failure :
    (after (exec (.readFailure .timeout) ⟨reading 4 false 2, []⟩)).map
        (fun d => (d.channel, d.rings[(4 : RingId)].cause, d.alert)) =
      some (none, .fetchflt, 0x10) := by
  decide +kernel

theorem test_idle_step_ticks :
    (after (exec (.registerWriteOther 0 1 0) ⟨running.tick, []⟩)).map
        (fun d => d.now) =
      some 1001 := by
  decide +kernel

/-! ## States that meet the hypotheses of the statements

An equation that only names a state (x = ...) is left out: it holds of the state it names. -/

theorem witness_CommandsGoOnAndTimeTicks :
    running.dueCommand = none ∧ (offers running 4 setRecord).dev.dueCommand = some (.set 4) := by
  decide +kernel

/-- Each event that is due at its own tick is the due command, and one tick before it none is (log 3's order, each place
of it at its boundary). -/
theorem witness_CommandsGoOnAndTimeTicks_2 :
    (timing .outputTimer (.timed none) pulseRecord).dueCommand = some .outputTimerExpiry ∧
    (timing .deadline .gateWait pulseRecord).dueCommand = some .deadlineExpiry ∧
    ({ timing .deadline .gateWait pulseRecord with now := 999 } : Device).dueCommand = none ∧
    (let ends (due : Time) : Device := running.setPoint 63 { Point.atReset false with window := some due }
     (ends 1000).dueCommand = some (.settleWindowEnd 63) ∧ (ends 1001).dueCommand = none) ∧
    ({ edging 7 with now := 25507 } : Device).dueCommand = some (.edgeEvent 31) ∧
    ({ edging 7 with now := 25506 } : Device).dueCommand = none ∧
    (let lapses (due : Time) : Device := { running with sup := { interval := 1, supv := .ok, countdown := some due } }
     (lapses 1000).dueCommand = some .supervisionLapse ∧ (lapses 1001).dueCommand = none) ∧
    (let delays (due : Time) : Device := { running with c1 := { openCRing with countdown := some due } }
     (delays 1000).dueCommand = some (.coalescingDelayExpiry .c1) ∧ (delays 1001).dueCommand = none) ∧
    ({ reading 1 false 2 with now := 1000 } : Device).dueCommand = some (.readFailure .timeout) ∧
    ({ reading 1 false 2 with now := 999 } : Device).dueCommand = none ∧
    ({ booting with now := 400 } : Device).dueCommand = some (.bootReadFailure .timeout) ∧
    ({ booting with now := 399 } : Device).dueCommand = none := by
  decide +kernel

theorem witness_ResetsRestoreEveryBlock :
    (2 : Word).getLsbD 1 = true ∧ ControlWrite 2 (.enable 2) ∧ ControlWrite 2 (.ic0en 2) ∧ ControlWrite 2 (.ic1en 2) ∧
      ControlWrite 2 (.alerten 2) ∧ ControlWrite 2 (.registerWriteOther 0x04 4 2) := by
  unfold ControlWrite; decide +kernel

theorem witness_ControlWriteStoresEnables :
    (ControlWrite 0x1D (.ic0en 0x1D) ∧ (0x1D : Word).getLsbD 1 = false ∧
      ¬(running.dstate = .init ∧ (0x1D : Word).getLsbD 0 = true)) ∧
    ControlWrite 0x1C (.alerten 0x1C) ∧ (0x1C : Word).getLsbD 1 = false ∧
      ¬((initial 0).dstate = .init ∧ (0x1C : Word).getLsbD 0 = true) := by
  unfold ControlWrite; decide +kernel

theorem witness_EnableBeginsBoot :
    ControlWrite 1 (.enable 1) ∧ (1 : Word).getLsbD 1 = false ∧ (1 : Word).getLsbD 0 = true ∧
      (∀ lo : Word, (initial lo).dstate = .init) ∧
      (((initial 64).bootHi ++ (initial 64).bootLo).toNat % 64 = 0 ∧ (initial 64).busReady = true) ∧
      ((initial 63).bootHi ++ (initial 63).bootLo).toNat % 64 ≠ 0 ∧
      ((cut (initial 0)).bootHi ++ (cut (initial 0)).bootLo).toNat % 64 = 0 ∧ (cut (initial 0)).busReady = false := by
  refine ⟨by unfold ControlWrite; decide, by decide, by decide, fun _ => rfl, ?_⟩
  decide +kernel

theorem witness_BootAddressRegisters :
    resets .linkReset = true ∧ after (exec .linkReset ⟨running, []⟩) ≠ none ∧ (initial 64).dstate = .init ∧
      running.dstate ≠ .init ∧ (1 : Word).getLsbD 1 = false ∧ (1 : Word).getLsbD 0 = true ∧
      (after (exec (.enable 1) ⟨initial 64, []⟩)).map (fun d => d.bootRead) = some (some ⟨64, 0⟩) ∧
      (initial 64).bootRead = none := by
  decide +kernel

theorem witness_BootReadEnds :
    booting.dstate = .booting ∧ booting.bootRead = some ⟨0x1000, 0⟩ ∧
      bootBlockOk goodBlock = true ∧ bootBlockOk (goodBlock ||| 0x100) = false ∧
      timeReached 400 ((0 : Time) + 400) = true ∧ timeReached 399 ((0 : Time) + 400) = false := by
  decide +kernel

theorem witness_ProducerWriteAccepted :
    (running.operational = true ∧ indexReservedOk 0x4000F = true ∧
      ringField 0x4000F = (4 : RingId).val ∧ indexField 0x4000F < running.rings[(4 : RingId)].size ∧
      running.rings[(4 : RingId)].state = .active ∧
      running.rings[(4 : RingId)].buf.length ≤
        indexSub (indexField 0x4000F) running.rings[(4 : RingId)].tail running.rings[(4 : RingId)].size) ∧
    indexReservedOk 2 = true ∧ ringField 2 = (0 : RingId).val ∧
      indexField 2 < (reading 0 false 5).rings[(0 : RingId)].size ∧
      (reading 0 false 5).rings[(0 : RingId)].buf.length + (reading 0 false 5).inFlightCount 0 ≤
        indexSub (indexField 2) (reading 0 false 5).rings[(0 : RingId)].tail (reading 0 false 5).rings[(0 : RingId)].size := by
  decide +kernel

theorem witness_ProducerWriteNotAccepted :
    (running.operational = true ∧ indexReservedOk 0x10010 = true ∧ ringField 0x10010 = (1 : RingId).val ∧
      running.rings[(1 : RingId)].state = .active ∧ running.rings[(1 : RingId)].size ≤ indexField 0x10010) ∧
    (indexReservedOk 0x10000 = true ∧ ringField 0x10000 = (1 : RingId).val ∧
      indexField 0x10000 < (offers running 1 setRecord).dev.rings[(1 : RingId)].size ∧
      indexSub (indexField 0x10000) (offers running 1 setRecord).dev.rings[(1 : RingId)].tail
        (offers running 1 setRecord).dev.rings[(1 : RingId)].size <
        (offers running 1 setRecord).dev.rings[(1 : RingId)].buf.length) ∧
    ({ running with dstate := .halted } : Device).dstate = .halted ∧ running.dstate ≠ .halted ∧
    ((initial 0).operational = false ∧ indexReservedOk 0x80000 = false ∧ 4 < ringField 0x50000 ∧
      (withRing running 3 .disabled).rings[(3 : RingId)].state ≠ .active) ∧
    (ringField 16 = 0 ∧ running.rings[(0 : RingId)].size ≤ indexField 16) ∧
    ringField 1 = 0 ∧
      indexSub (indexField 1) (reading 0 false 5).rings[(0 : RingId)].tail (reading 0 false 5).rings[(0 : RingId)].size <
        (reading 0 false 5).rings[(0 : RingId)].buf.length + (reading 0 false 5).inFlightCount 0 := by
  decide +kernel

/-- C1 with three records the host has not read. -/
def unread : Device := { running with c1 := { openCRing with producer := 3, ic := true } }

theorem witness_ConsumerWriteAcknowledges :
    (unread.operational = true ∧ indexReservedOk 0x10003 = true ∧
      ringField 0x10003 = (if CRingId.c1 = .c0 then 0 else 1) ∧ (unread.cring .c1).state = .active ∧
      indexField 0x10003 < (unread.cring .c1).size ∧
      indexSub (indexField 0x10003) (unread.cring .c1).consumer (unread.cring .c1).size ≤
        indexSub (unread.cring .c1).producer (unread.cring .c1).consumer (unread.cring .c1).size) ∧
    ({ running with dstate := .halted } : Device).dstate = .halted ∧ unread.dstate ≠ .halted ∧
    ((initial 0).operational = false ∧ indexReservedOk 0x1000 = false ∧ 1 < ringField 0x20000) ∧
    ((initial 0).cring .c0).state ≠ .active ∧ (unread.cring .c1).size ≤ indexField 0x10010 ∧
    indexSub (unread.cring .c1).producer (unread.cring .c1).consumer (unread.cring .c1).size <
      indexSub (indexField 0x10004) (unread.cring .c1).consumer (unread.cring .c1).size := by
  decide +kernel

theorem witness_RegisterWindow :
    (2 : Nat) ≠ 4 ∧ (let o : BitVec 6 := 0x24; o ≠ 0x04 ∧ o ≠ 0x0C ∧ o ≠ 0x14 ∧ o ≠ 0x18 ∧ o ≠ 0x1C ∧ o ≠ 0x20) ∧
      0x24 ≤ (0x24 : BitVec 6).toNat ∧ (0x1D : BitVec 6).toNat % 4 + 2 < 4 ∧ (2 : Nat) < 3 := by
  decide +kernel

theorem witness_TakingConditions :
    (offers running 1 setRecord).dev.taken? 1 = some (setRecord, [], 0) ∧
      (offers running 0 (record [0x1E])).dev.taken? 0 = some (record [0x1E], [], 60) ∧
      (offers configuring 1 setRecord).dev.rings[(1 : RingId)].buf = [setRecord] ∧
      (offers configuring 1 setRecord).dev.taken? 1 = none := by
  decide +kernel

/-- The same device with C0 FAULTED is no state of a run; C1 is taken for it. -/
def heldByC1 (st : CRingState) : Device :=
  holds { running with rings := running.rings.set 2 { openRing with bound := .c1 }, c1 := { openCRing with state := st } } 0
    (entry 2 noteRecord .triggerWait)

theorem witness_AnswerJoinsQueue :
    (heldByC1 .active).slots[(0 : Slot)] = some (entry 2 noteRecord .triggerWait) ∧
      ((heldByC1 .active).cring (heldByC1 .active).rings[(2 : RingId)].bound).state ≠ .faulted ∧
      (heldByC1 .faulted).slots[(0 : Slot)] = some (entry 2 noteRecord .triggerWait) ∧
      ((heldByC1 .faulted).cring (heldByC1 .faulted).rings[(2 : RingId)].bound).state = .faulted := by
  decide +kernel

/-- A SET with a reserved flag bit. -/
def badRecord : RawRecord := record [1, 0x10, 0, 0, 3]

theorem witness_MalformedRecordsAnswerBadrec :
    (offers running 4 badRecord).dev.TakesAction .set 4 badRecord [] 0 ∧ validAction .set badRecord = false := by
  unfold Device.TakesAction Device.Takes; decide +kernel

theorem witness_MalformedRecordsAnswerBadrec_2 :
    (offers running 4 (record [9])).dev.Takes 4 (record [9]) [] 0 ∧ actionKindOf (record [9]) = none ∧
      (offers running 0 (record [0x1F])).dev.Takes 0 (record [0x1F]) [] 60 ∧ adminKindOf (record [0x1F]) = none := by
  unfold Device.Takes; decide +kernel

/-- Zone 7 alone is enabled and covers points 62 and 63. -/
def highZone : Device := { running with zones := State.reset.dev.zones.set 7 { openZone with base := 62, size := 2 } }

theorem witness_ZoneTableAnswers :
    (∀ z : Fin 8, highZone.zones[z].covers 61 = false) ∧ highZone.zones[(7 : Fin 8)].covers 62 = true ∧
      highZone.zones[(7 : Fin 8)].covers 63 = true ∧ (∀ y : Fin 8, y < 7 → highZone.zones[y].covers 63 = false) ∧
      running.zones[(0 : Fin 8)].covers 63 = true := by
  decide +kernel

/-- No zone is enabled. -/
def unzoned : Device := { running with zones := State.reset.dev.zones }

/-- The zone grants on-effects alone. -/
def onlyOn : Device := { running with zones := State.reset.dev.zones.set 0 { openZone with offok := false } }

/-- Point 3 in group 7, and the gate of group 7 as given. -/
def grouped (gate : Bool) : Device :=
  (running.setPoint 3 { Point.atReset false with group := 7 }).setGroup 6 { Group.atReset with gate := gate }

/-- Point 3 FAULTED. -/
def faulted : Device := running.setPoint 3 { Point.atReset false with pstate := .faulted }

/-- Point 3 claimed by a PULSE in slot 5. -/
def claimed : Device :=
  holds (({ running with timing := [⟨5, .outputTimer, 1050⟩] } : Device).setClaim 3 (some 5)) 5
    (entry 1 pulseRecord (.timed none))

theorem witness_RefusedActionsTouchNothing :
    let h : RawRecord := setRecord
    let d := (offers unzoned 1 h).dev
    d.TakesAction .set 1 h [] 0 ∧ isOutputKind .set = true ∧
      validAction .set h = true ∧ d.zoneRefusal 1 true (pointOf h) = some .nozone := by
  unfold Device.TakesAction Device.Takes; decide +kernel

theorem witness_RefusedActionsTouchNothing_2 :
    let h : RawRecord := (record [2, 0, 0, 0, 3])
    let d := (offers onlyOn 4 h).dev
    d.TakesAction .clear 4 h [] 0 ∧ isOutputKind .clear = true ∧
      validAction .clear h = true ∧
      d.zoneRefusal 4 false (pointOf h) = some .denied := by
  unfold Device.TakesAction Device.Takes; decide +kernel

theorem witness_RefusedActionsTouchNothing_3 :
    let h : RawRecord := setRecord
    let d := (offers faulted 1 h).dev
    d.TakesAction .set 1 h [] 0 ∧ validAction .set h = true ∧
      d.zoneRefusal 1 true (pointOf h) = none ∧ trigOf h = false ∧
      d.points[pointOf h].pstate = .faulted := by
  unfold Device.TakesAction Device.Takes; decide +kernel

theorem witness_RefusedActionsTouchNothing_4 :
    let h : RawRecord := setRecord
    let d := (offers (grouped false) 1 h).dev
    d.TakesAction .set 1 h [] 0 ∧ validAction .set h = true ∧
      d.zoneRefusal 1 true (pointOf h) = none ∧ trigOf h = false ∧
      d.points[pointOf h].pstate = .normal ∧ isOnEffect .set = true ∧
      d.gateOpen d.points[pointOf h].group = false ∧ waitGateOf h = false := by
  unfold Device.TakesAction Device.Takes; decide +kernel

theorem witness_RefusedActionsTouchNothing_5 :
    let h : RawRecord := blinkRecord
    let d := (offers claimed 1 h).dev
    d.TakesAction .blink 1 h [] 0 ∧ validAction .blink h = true ∧
      d.zoneRefusal 1 true (pointOf h) = none ∧ trigOf h = false ∧
      d.PassesChecks .blink h ∧ d.points[pointOf h].claim ≠ none ∧
      supersedeOf h = false := by
  unfold Device.TakesAction Device.Takes Device.PassesChecks; decide +kernel

theorem witness_SetAndClear :
    let h : RawRecord := setRecord
    let d := (offers running 1 h).dev
    d.TakesAction .set 1 h [] 0 ∧ d.ReachesEffect .set 1 h := by
  unfold Device.TakesAction Device.Takes Device.ReachesEffect Device.Grants Device.PassesChecks; decide +kernel

theorem witness_SetAndClear_2 :
    let h : RawRecord := (record [2, 0, 0, 0, 3])
    let d := (offers running 4 h).dev
    d.TakesAction .clear 4 h [] 0 ∧ d.ReachesEffect .clear 4 h := by
  unfold Device.TakesAction Device.Takes Device.ReachesEffect Device.Grants Device.PassesChecks; decide +kernel

theorem witness_SetAndClear_3 :
    let h : RawRecord := (record [2, 2, 0, 0, 3])
    let d := (offers claimed 4 h).dev
    d.TakesAction .clear 4 h [] 0 ∧ d.Grants .clear 4 h ∧
      trigOf h = false ∧ d.points[pointOf h].pstate = .normal ∧
      d.points[pointOf h].claim ≠ none ∧ supersedeOf h = true ∧ d.busReady = true ∧
      running.points[(3 : PointId)].level = false := by
  unfold Device.TakesAction Device.Takes Device.Grants; decide +kernel

theorem witness_TimedKindsClaimPoint :
    let h : RawRecord := pulseRecord
    let d := (offers running 2 h).dev
    d.TakesAction .pulse 2 h [] 0 ∧ d.ReachesEffect .pulse 2 h := by
  unfold Device.TakesAction Device.Takes Device.ReachesEffect Device.Grants Device.PassesChecks; decide +kernel

theorem witness_TimedKindsClaimPoint_2 :
    let h : RawRecord := (record [4, 0, 0, 0, 63, 3, 255, 255])
    let d := (offers running 2 h).dev
    d.TakesAction .delaySet 2 h [] 0 ∧ d.ReachesEffect .delaySet 2 h := by
  unfold Device.TakesAction Device.Takes Device.ReachesEffect Device.Grants Device.PassesChecks; decide +kernel

theorem witness_TimedKindsClaimPoint_3 :
    let h : RawRecord := (record [5, 0, 0, 0, 0, 0, 1, 0])
    let d := (offers running 2 h).dev
    d.TakesAction .delayClear 2 h [] 0 ∧ d.ReachesEffect .delayClear 2 h := by
  unfold Device.TakesAction Device.Takes Device.ReachesEffect Device.Grants Device.PassesChecks; decide +kernel

theorem witness_TimedKindsClaimPoint_4 :
    let h : RawRecord := blinkRecord
    let d := (offers running 2 h).dev
    d.TakesAction .blink 2 h [] 0 ∧ d.ReachesEffect .blink 2 h := by
  unfold Device.TakesAction Device.Takes Device.ReachesEffect Device.Grants Device.PassesChecks; decide +kernel

/-- R64 and R67 across the wrap of device time, and a COUNT of 100 ms units. -/
theorem witness_TimedKindsClaimPoint_5 :
    (let l : List TimerEntry := [⟨1, .outputTimer, 0xFFFFFFF0⟩, ⟨2, .deadline, 5⟩, ⟨3, .outputTimer, 5⟩]
     let t : TimerEntry := ⟨4, .outputTimer, 5⟩
     (∀ x ∈ t :: l, (x.due - 0xFFFFFFF0).toNat < 2 ^ 31) ∧ l.Pairwise (fun x y => timeBefore y.due x.due = false) ∧
       (insertTimer t l).map TimerEntry.owner = [1, 2, 3, 4]) ∧
    [10, 100, 1000, 10000][3]? = some 10000 ∧ (byteAt (record [3, 0, 0, 0, 0, 3, 255, 255]) 5).toNat = 3 ∧
      (byteAt (record [3, 0, 0, 0, 0, 0, 0, 0, 0, 0, 0, 1]) 11).toNat = 1 := by
  decide +kernel

theorem witness_SupersedeCancelsClaim :
    let h : RawRecord := (record [3, 2, 0, 0, 3, 0, 5, 0])
    let d := (offers claimed 1 h).dev
    d.TakesAction .pulse 1 h [] 0 ∧ isOutputKind .pulse = true ∧
      d.Grants .pulse 1 h ∧ trigOf h = false ∧
      d.PassesChecks .pulse h ∧
      d.points[pointOf h].claim = some 5 ∧ supersedeOf h = true := by
  unfold Device.TakesAction Device.Takes Device.Grants Device.PassesChecks; decide +kernel

/-- The effect of each kind, in a slot that holds the entry. -/
theorem witness_SupersedeCancelsClaim_2 :
    ∀ x ∈ [((1 : Byte), ActionKind.set), (2, .clear), (3, .pulse), (4, .delaySet), (5, .delayClear), (6, .blink)],
      actionKindOf (entry 1 (record [x.1, 0, 0, 0, 63, 3, 255, 255, 255]) .gateWait).record = some x.2 ∧
        (holds running 59 (entry 1 (record [x.1, 0, 0, 0, 63, 3, 255, 255, 255]) .gateWait)).slots[(59 : Slot)] =
          some (entry 1 (record [x.1, 0, 0, 0, 63, 3, 255, 255, 255]) .gateWait) := by
  decide +kernel

theorem witness_ClosedGateWaits :
    let h : RawRecord := (record [1, 4, 0, 0, 3])
    let d := (offers (grouped false) 1 h).dev
    d.TakesAction .set 1 h [] 0 ∧ d.Grants .set 1 h ∧
      trigOf h = false ∧ isOnEffect .set = true ∧
      d.points[pointOf h].pstate = .normal ∧
      d.points[pointOf h].group = (6 : Fin 7).succ ∧
      d.groups[(6 : Fin 7)].gate = false ∧ waitGateOf h = true := by
  unfold Device.TakesAction Device.Takes Device.Grants; decide +kernel

theorem witness_ClosedGateWaits_2 :
    let h : RawRecord := (record [1, 4, 0, 0, 3, 0, 0, 0, 0, 0, 0, 3, 1])
    let d := (offers (grouped false) 1 h).dev
    d.TakesAction .set 1 h [] 0 ∧ d.Grants .set 1 h ∧
      trigOf h = false ∧ isOnEffect .set = true ∧
      d.points[pointOf h].pstate = .normal ∧
      d.points[pointOf h].group = (6 : Fin 7).succ ∧
      d.groups[(6 : Fin 7)].gate = false ∧ waitGateOf h = true := by
  unfold Device.TakesAction Device.Takes Device.Grants; decide +kernel

theorem witness_TriggerWaits :
    let h : RawRecord := noteRecord
    let d := (offers running 3 h).dev
    d.TakesAction .note 3 h [] 0 ∧ validAction .note h = true := by
  unfold Device.TakesAction Device.Takes; decide +kernel

theorem witness_TriggerWaits_2 :
    let h : RawRecord := (record [2, 8, 0, 0, 63, 0, 0, 0, 0, 31, 3, 0, 255, 255])
    let d := (offers faulted 1 h).dev
    d.TakesAction .clear 1 h [] 0 ∧ isOutputKind .clear = true ∧
      d.Grants .clear 1 h ∧
      trigOf h = true := by
  unfold Device.TakesAction Device.Takes Device.Grants; decide +kernel

theorem witness_KeepaliveAnswers :
    let h : RawRecord := (record [8])
    let d := (offers { running with sup := ⟨10, .ok, none⟩ } 1 h).dev
    d.TakesAction .keepalive 1 h [] 0 ∧ validAction .keepalive h = true ∧
      d.sup.supv = .ok := by
  unfold Device.TakesAction Device.Takes; decide +kernel

theorem witness_KeepaliveAnswers_2 :
    let h : RawRecord := (record [8])
    let d := (offers { running with sup := ⟨10, .off, none⟩ } 1 h).dev
    d.TakesAction .keepalive 1 h [] 0 ∧ validAction .keepalive h = true ∧
      d.sup.supv = .off := by
  unfold Device.TakesAction Device.Takes; decide +kernel

theorem witness_KeepaliveAnswers_3 :
    let h : RawRecord := (record [8])
    let d := (offers { running with sup := ⟨10, .lapsed, none⟩ } 1 h).dev
    d.TakesAction .keepalive 1 h [] 0 ∧ validAction .keepalive h = true ∧
      d.sup.supv = .lapsed := by
  unfold Device.TakesAction Device.Takes; decide +kernel

theorem witness_AdminRefusedByState :
    let h : RawRecord := pointRecord
    let d := (offers running 0 h).dev
    d.TakesAdmin .definePoint h [] 60 ∧ d.adminPermitted .definePoint = false := by
  unfold Device.TakesAdmin Device.Takes; decide +kernel

theorem witness_AdminRefusedByParameters :
    let h : RawRecord := (record [0x12, 0, 0, 0, 64])
    let d := (offers configuring 0 h).dev
    d.TakesAdmin .definePoint h [] 60 ∧ d.adminPermitted .definePoint = true ∧
      adminOk .definePoint h = false := by
  unfold Device.TakesAdmin Device.Takes; decide +kernel

theorem witness_RingsConfigured :
    let h : RawRecord := ringRecord
    let d := (offers (withRing configuring 4 .disabled) 0 h).dev
    d.TakesAdmin .configureRing h [] 60 ∧ d.dstate = .configure ∧
      configureRingOk h = true ∧ (4 : RingId).val = (byteAt h 4).toNat ∧
      d.rings[(4 : RingId)].state = .disabled := by
  unfold Device.TakesAdmin Device.Takes; decide +kernel

theorem witness_RingsConfigured_2 :
    let h : RawRecord := ringRecord
    let d := (offers configuring 0 h).dev
    d.TakesAdmin .configureRing h [] 60 ∧ configureRingOk h = true ∧
      d.rings[(4 : RingId)].state ≠ .disabled := by
  unfold Device.TakesAdmin Device.Takes; decide +kernel

theorem witness_RingsConfigured_3 :
    let h : RawRecord := completionRecordC1
    let d := (offers configuring 0 h).dev
    d.TakesAdmin .configureCompletion h [] 60 ∧ d.dstate = .configure ∧
      configureCompletionOk h = true := by
  unfold Device.TakesAdmin Device.Takes; decide +kernel

theorem witness_PointsAndInputsDefined :
    let h : RawRecord := pointRecord
    let d := (offers configuring 0 h).dev
    d.TakesAdmin .definePoint h [] 60 ∧ d.dstate = .configure ∧
      definePointOk h = true ∧ (63 : PointId).val = (byteAt h 4).toNat := by
  unfold Device.TakesAdmin Device.Takes; decide +kernel

theorem witness_PointsAndInputsDefined_2 :
    let h : RawRecord := inputRecord
    let d := (offers configuring 0 h).dev
    d.TakesAdmin .defineInput h [] 60 ∧ d.dstate = .configure ∧
      defineInputOk h = true ∧ (31 : InputId).val = (byteAt h 4).toNat := by
  unfold Device.TakesAdmin Device.Takes; decide +kernel

theorem witness_PointsAndInputsDefined_3 :
    let h : RawRecord := (record [0x1B, 0, 0, 0, 63])
    let d := (offers running 0 h).dev
    d.TakesAdmin .clearPointFault h [] 60 ∧ d.dstate = .run ∧
      clearPointFaultOk h = true ∧ (63 : PointId).val = (byteAt h 4).toNat := by
  unfold Device.TakesAdmin Device.Takes; decide +kernel

theorem witness_ZonesGroupsAndIntervalDefined :
    let h : RawRecord := zoneRecord
    let d := (offers configuring 0 h).dev
    d.TakesAdmin .defineZone h [] 60 ∧ d.dstate = .configure ∧
      defineZoneOk h = true ∧ (7 : Fin 8).val = (byteAt h 4).toNat := by
  unfold Device.TakesAdmin Device.Takes; decide +kernel

theorem witness_ZonesGroupsAndIntervalDefined_2 :
    let h : RawRecord := (record [0x16, 0, 0, 0, 255, 255])
    let d := (offers configuring 0 h).dev
    d.TakesAdmin .setSupervision h [] 60 ∧ adminReservedOk .setSupervision h = true := by
  unfold Device.TakesAdmin Device.Takes; decide +kernel

theorem witness_ZonesGroupsAndIntervalDefined_3 :
    let h : RawRecord := groupRecord
    let d := (offers configuring 0 h).dev
    d.TakesAdmin .defineGroup h [] 60 ∧ defineGroupOk h = true ∧
      (6 : Fin 7).val + 1 = (byteAt h 4).toNat ∧
      (∀ i : Fin 16, literalOf (byteAt h (6 + i.val)) = some (groupLiterals h)[i]) ∧
      ∀ (i : Fin 16) (g : Fin 8) (neg : Bool), (groupLiterals h)[i] = .gate g neg → g.val < (6 : Fin 7).val + 1 := by
  unfold Device.TakesAdmin Device.Takes; decide +kernel

theorem witness_ZonesGroupsAndIntervalDefined_4 :
    let h : RawRecord := selfGroupRecord
    let d := (offers configuring 0 h).dev
    d.TakesAdmin .defineGroup h [] 60 ∧ defineGroupOk h = true ∧
      (∀ i : Fin 16, literalOf (byteAt h (6 + i.val)) = some (groupLiterals h)[i]) ∧
      (groupLiterals h)[(0 : Fin 16)] = .gate 7 false ∧ (6 : Fin 7).val + 1 ≤ (7 : Fin 8).val := by
  unfold Device.TakesAdmin Device.Takes; decide +kernel

theorem witness_ZonesGroupsAndIntervalDefined_5 :
    (0x3F : Byte).toNat % 128 = 32 + (31 : InputId).val ∧ (0xC7 : Byte).toNat % 128 = 64 + (7 : Fin 8).val ∧
      (0xE0 : Byte).toNat % 128 = 96 := by
  decide +kernel

/-- CONFIGURE with ring 4 bound to a DISABLED C1. -/
def unbound : Device :=
  { configuring with c1 := CRing.atReset, rings := configuring.rings.set 4 { openRing with bound := .c1 } }

/-- CONFIGURE with zones 0, 6 and 7 enabled; 6 and 7 overlap. -/
def overlapping : Device :=
  { configuring with
    zones := (State.reset.dev.zones.set 6 { openZone with base := 32, size := 32 }).set 7
      { openZone with base := 63, size := 1 } }

/-- CONFIGURE with group 1 true by SUPOK, group 2 true by the gate of group 1, group 3 true but forced. -/
def gated : Device :=
  ((configuring.setGroup 0 { Group.atReset with terms := 1, lits := Group.atReset.lits.set 0 (.supok false) }).setGroup 1
    { Group.atReset with terms := 4, lits := Group.atReset.lits.set 12 (.gate 1 false) }).setGroup 2
    { Group.atReset with terms := 1, force := true }

theorem witness_EnterRunRefusals :
    let h : RawRecord := (record [0x17])
    let d := (offers unbound 0 h).dev
    d.TakesAdmin .enterRun h [] 60 ∧ d.dstate = .configure ∧
      enterRunOk h = true ∧ d.rings[(4 : RingId)].state = .active ∧
      (d.cring d.rings[(4 : RingId)].bound).state ≠ .active := by
  unfold Device.TakesAdmin Device.Takes; decide +kernel

theorem witness_EnterRunRefusals_2 :
    let h : RawRecord := (record [0x17, 0, 0, 0, 1])
    let d := (offers overlapping 0 h).dev
    d.TakesAdmin .enterRun h [] 60 ∧ d.dstate = .configure ∧
      enterRunOk h = true ∧
      (∀ r : RingId, r ≠ 0 → d.rings[r].state = .active →
        (d.cring d.rings[r].bound).state = .active) ∧
      strictOf h = true ∧
      zonesOverlap d.zones[(6 : Fin 8)] d.zones[(7 : Fin 8)] = true ∧
      ∀ x y : Fin 8, x < y → zonesOverlap d.zones[x] d.zones[y] = true →
        (6 : Fin 8) < x ∨ 6 = x ∧ 7 ≤ y := by
  unfold Device.TakesAdmin Device.Takes; decide +kernel

/-- ENTER_RUN with DIGEST_PRESENT and this digest's low byte. -/
def digestRecord (low : Byte) : RawRecord := record [0x17, 0, 0, 0, 2, 0, 0, 0, low]

theorem witness_EnterRunRefusals_3 :
    ∃ low : Byte, (offers configuring 0 (digestRecord low)).dev.TakesAdmin .enterRun (digestRecord low) [] 60 ∧
      enterRunOk (digestRecord low) = true ∧ strictOf (digestRecord low) = false ∧
      digestPresentOf (digestRecord low) = true ∧
      (offers configuring 0 (digestRecord low)).dev.digestValue ≠ expectedDigestOf (digestRecord low) := by
  by_cases h : (offers configuring 0 (digestRecord 0)).dev.digestValue = 0
  · have h1 : (offers configuring 0 (digestRecord 1)).dev.digestValue = 0 := h
    refine ⟨1, by unfold Device.TakesAdmin Device.Takes; decide +kernel, by decide +kernel, by decide +kernel,
      by decide +kernel, ?_⟩
    rw [h1]; decide +kernel
  · refine ⟨0, by unfold Device.TakesAdmin Device.Takes; decide +kernel, by decide +kernel, by decide +kernel,
      by decide +kernel, fun e => h (e.trans ?_)⟩
    decide +kernel

/-- ENTER_RUN with STRICT. -/
def strictRecord : RawRecord := record [0x17, 0, 0, 0, 1]

theorem witness_EnterRunOpensGates :
    (offers gated 0 strictRecord).dev.TakesAdmin .enterRun strictRecord [] 60 ∧ enterRunOk strictRecord = true ∧
      (∀ r : RingId, r ≠ 0 → gated.rings[r].state = .active → (gated.cring gated.rings[r].bound).state = .active) ∧
      (∀ x y : Fin 8, x < y → zonesOverlap gated.zones[x] gated.zones[y] = false) ∧
      digestPresentOf strictRecord = false ∧ (offers gated 0 strictRecord).dev.QuietOutsideRun ∧
      (offers gated 0 strictRecord).dev.GatesOrdered := by
  unfold Device.TakesAdmin Device.Takes Device.QuietOutsideRun Device.GatesOrdered; decide +kernel

/-- The gates that opening leaves: group 1 and group 2 OPEN, group 3 forced CLOSED. -/
theorem test_enter_run_gates :
    (after (exec .enterRun (offers gated 0 strictRecord))).map (fun d => d.groups.toList.map (fun g => g.gate)) =
      some [true, true, false, false, false, false, false] := by
  decide +kernel

theorem witness_EnterConfigureStartsDrain :
    let h : RawRecord := (record [0x18])
    let d := (offers claimed 0 h).dev
    d.TakesAdmin .enterConfigure h [] 60 ∧ d.dstate = .run ∧ d.busReady = true ∧
      adminReservedOk .enterConfigure h = true := by
  unfold Device.TakesAdmin Device.Takes; decide +kernel

/-- The only entry of `claimed` is the PULSE in slot 5. -/
theorem claimed_slot (a : Slot) (e : Entry) (h : claimed.slots[a] = some e) :
    a = 5 ∧ e = entry 1 pulseRecord (.timed none) := by
  have h' : ∀ a : Slot, claimed.slots[a] = if a = 5 then some (entry 1 pulseRecord (.timed none)) else none := by
    decide +kernel
  rw [h' a] at h
  split at h
  · exact ⟨‹_›, by simpa using h.symm⟩
  · cases h

theorem claimed_claimsTied : claimed.ClaimsTied := by
  have hc : ∀ (p : PointId) (a : Slot), claimed.points[p].claim = some a ↔ p = 3 ∧ a = 5 := by decide +kernel
  intro p a
  rw [hc]
  constructor
  · rintro ⟨rfl, rfl⟩
    exact ⟨entry 1 pulseRecord (.timed none), none, by decide +kernel, rfl, by decide +kernel⟩
  · rintro ⟨e, b, h, -, rfl⟩
    obtain ⟨rfl, rfl⟩ := claimed_slot a e h
    exact ⟨by decide +kernel, rfl⟩

theorem claimed_timersTied : claimed.TimersTied := by
  refine ⟨by decide +kernel, fun t ht => ?_, fun a e b h hb => ?_⟩
  · have : t = ⟨5, .outputTimer, 1050⟩ := by
      have hl : claimed.timing = [⟨5, .outputTimer, 1050⟩] := by decide +kernel
      rw [hl] at ht
      simpa using ht
    subst this
    exact ⟨entry 1 pulseRecord (.timed none), by decide +kernel, .inl ⟨rfl, none, rfl⟩⟩
  · obtain ⟨rfl, rfl⟩ := claimed_slot a e h
    obtain rfl : none = b := by simpa [entry] using hb
    exact ⟨by decide, by decide +kernel, ⟨5, .outputTimer, 1050⟩, by decide +kernel, rfl⟩

theorem witness_EnterConfigureStartsDrain_2 : claimed.ClaimsTied ∧ claimed.TimersTied :=
  ⟨claimed_claimsTied, claimed_timersTied⟩

theorem witness_DrainEnds :
    draining.adminActive? = some 60 ∧
      draining.slots[(60 : Slot)] = some (entry 0 (record [0x18]) .adminActive) ∧
      adminKindOf (record [0x18]) = some .enterConfigure ∧ draining.dstate = .draining ∧
      (∀ b : Slot, b.val < 60 → draining.slots[b] = none) ∧
      (holds draining 59 (entry 1 setRecord (.answered ⟨.done, 0, 0⟩))).slots[(59 : Slot)] ≠ none := by
  decide +kernel

theorem witness_ForceRestoreAndLapse :
    let h : RawRecord := (record [0x19, 0, 0, 0, 7, 1])
    let d := (offers configuring 0 h).dev
    d.TakesAdmin .forceGroup h [] 60 ∧ d.dstate = .configure ∧
      forceGroupOk h = true ∧ (6 : Fin 7).val + 1 = (byteAt h 4).toNat := by
  unfold Device.TakesAdmin Device.Takes; decide +kernel

theorem witness_ForceRestoreAndLapse_2 :
    let h : RawRecord := (record [0x19, 0, 0, 0, 7, 1])
    let d := (offers running 0 h).dev
    d.TakesAdmin .forceGroup h [] 60 ∧ d.dstate = .run ∧
      forceGroupOk h = true ∧ (6 : Fin 7).val + 1 = (byteAt h 4).toNat := by
  unfold Device.TakesAdmin Device.Takes; decide +kernel

theorem witness_ForceRestoreAndLapse_3 :
    let h : RawRecord := (record [0x1A])
    let d := (offers running 0 h).dev
    d.TakesAdmin .restoreSupervision h [] 60 ∧ d.dstate = .run ∧
      adminReservedOk .restoreSupervision h = true := by
  unfold Device.TakesAdmin Device.Takes; decide +kernel

theorem witness_ForceRestoreAndLapse_4 :
    (let d : Device := { running with sup := ⟨10, .ok, some 1000⟩ }
     d.sup.supv = .ok ∧ d.sup.countdown = some 1000 ∧ timeReached d.now 1000 = true) := by
  decide +kernel

theorem witness_RingResetBegins :
    let h : RawRecord := (resetRecord 1 0)
    let d := (offers (withRing running 1 .active) 0 h).dev
    d.TakesAdmin .ringReset h [] 60 ∧ d.dstate = .run ∧
      ringResetOk h = true ∧ (1 : RingId).val = (byteAt h 4).toNat ∧
      d.rings[(1 : RingId)].state = .active := by
  unfold Device.TakesAdmin Device.Takes; decide +kernel

theorem witness_RingResetBegins_2 :
    let h : RawRecord := (resetRecord 4 1)
    let d := (offers (withRing running 4 .faulted) 0 h).dev
    d.TakesAdmin .ringReset h [] 60 ∧ d.dstate = .run ∧
      ringResetOk h = true ∧ (4 : RingId).val = (byteAt h 4).toNat ∧
      d.rings[(4 : RingId)].state = .faulted := by
  unfold Device.TakesAdmin Device.Takes; decide +kernel

theorem witness_RingResetBegins_3 :
    let h : RawRecord := (resetRecord 2 0)
    let d := (offers (withRing running 2 .disabled) 0 h).dev
    d.TakesAdmin .ringReset h [] 60 ∧ d.dstate = .run ∧
      ringResetOk h = true ∧ (2 : RingId).val = (byteAt h 4).toNat ∧
      d.rings[(2 : RingId)].state = .disabled := by
  unfold Device.TakesAdmin Device.Takes; decide +kernel

theorem witness_RingResetBegins_4 :
    let h : RawRecord := (resetRecord 3 0)
    let d := (offers (withRing running 3 .resetting) 0 h).dev
    d.TakesAdmin .ringReset h [] 60 ∧ d.dstate = .run ∧
      ringResetOk h = true ∧ (3 : RingId).val = (byteAt h 4).toNat ∧
      d.rings[(3 : RingId)].state = .resetting := by
  unfold Device.TakesAdmin Device.Takes; decide +kernel

/-- The same with ring 1 bound to a FAULTED C1. -/
def resettingFaulted : Device :=
  { resetting 0 with
    c1 := { openCRing with state := .faulted }
    rings := (resetting 0).rings.set 1 { openRing with state := .resetting, bound := .c1 } }

theorem witness_RingResetEnds :
    (∀ x : Fin 2,
      (resetting (BitVec.ofNat 8 x.val)).adminActive? = some 60 ∧
      (resetting (BitVec.ofNat 8 x.val)).slots[(60 : Slot)] =
        some (entry 0 (resetRecord 1 (BitVec.ofNat 8 x.val)) .adminActive) ∧
      adminKindOf (resetRecord 1 (BitVec.ofNat 8 x.val)) = some .ringReset ∧
      ringResetOk (resetRecord 1 (BitVec.ofNat 8 x.val)) = true ∧
      (1 : RingId).val = (byteAt (resetRecord 1 (BitVec.ofNat 8 x.val)) 4).toNat ∧
      (resetting (BitVec.ofNat 8 x.val)).rings[(1 : RingId)].state = .resetting ∧
      (resetting (BitVec.ofNat 8 x.val)).held 1 = 0 ∧
      byteAt (resetRecord 1 (BitVec.ofNat 8 x.val)) 5 = BitVec.ofNat 8 x.val) ∧
    ((resetting 0).cring (resetting 0).rings[(1 : RingId)].bound).state ≠ .faulted ∧
    (resettingFaulted.rings[(1 : RingId)].state = .resetting ∧ resettingFaulted.held 1 = 0 ∧
      (resettingFaulted.cring resettingFaulted.rings[(1 : RingId)].bound).state = .faulted) ∧
    (holds (resetting 0) 0 (entry 1 setRecord (.answered ⟨.done, 0, 0⟩))).held 1 ≠ 0 := by
  decide +kernel

theorem witness_SnapshotWritten :
    let h : RawRecord := (record [0x1D, 0, 0, 0, 0, 0, 0, 0, 0x40])
    let d := (offers configuring 0 h).dev
    d.TakesAdmin .snapshot h [] 60 ∧ d.busReady = true ∧ d.dstate = .configure ∧
      snapshotOk h = true := by
  unfold Device.TakesAdmin Device.Takes; decide +kernel

theorem witness_SnapshotWritten_3 :
    snapping.snapWrite = some ⟨0x80, []⟩ ∧ snapping.adminActive? = some 60 := by
  decide +kernel

theorem witness_SnapshotWritten_2 :
    let h : RawRecord := (record [0x1D, 0, 0, 0, 0, 0, 0, 0, 0x40])
    let d := (offers (cut running) 0 h).dev
    d.TakesAdmin .snapshot h [] 60 ∧ d.busReady = false ∧ d.dstate = .run ∧
      (let x : Device := (d.takeHead 0 60 h []).answer 60 .abuf 0
       (x.mayIssue .c1 = false ∨ x.queueHead .c1 = none) ∧ x.mayIssue .c0 = true ∧ x.queueHead .c0 ≠ none) := by
  unfold Device.TakesAdmin Device.Takes; decide +kernel

theorem witness_DigestOfConfiguration :
    let h : RawRecord := (record [0x1E])
    let d := (offers running 0 h).dev
    d.TakesAdmin .digest h [] 60 ∧ d.dstate = .run ∧
      adminReservedOk .digest h = true := by
  unfold Device.TakesAdmin Device.Takes; decide +kernel

theorem witness_OutputTimerEndsAction :
    (let d := timing .outputTimer (.timed none) pulseRecord
     d.dstate = .run ∧ d.timing = [⟨0, .outputTimer, 1000⟩] ∧ timeReached d.now 1000 = true ∧
       d.slots[(0 : Slot)] = some (entry 1 pulseRecord (.timed none))) ∧
    actionKindOf pulseRecord = some .pulse ∧ actionKindOf (record [4]) = some .delaySet ∧
      actionKindOf (record [5]) = some .delayClear := by
  decide +kernel

theorem witness_BlinkSteps :
    ∀ b ∈ [Blink.mk true 1, ⟨true, 2⟩, ⟨true, 255⟩, ⟨false, 1⟩],
      (let d := timing .outputTimer (.timed (some b)) blinkRecord
       d.dstate = .run ∧ d.timing = [⟨0, .outputTimer, 1000⟩] ∧ timeReached d.now 1000 = true ∧
         d.slots[(0 : Slot)] = some (entry 1 blinkRecord (.timed (some b)))) ∧
      actionKindOf blinkRecord = some .blink := by
  decide +kernel

theorem witness_DeadlineEndsWait :
    ∀ st ∈ [EntryState.triggerWait, .gateWait],
      (let d := timing .deadline st setRecord
       d.dstate = .run ∧ d.timing = [⟨0, .deadline, 1000⟩] ∧ timeReached d.now 1000 = true ∧
         d.slots[(0 : Slot)] = some (entry 1 setRecord st)) := by
  decide +kernel

theorem witness_PointFaultsFound :
    ((readback (some 1000) true).points[(63 : PointId)].window = some 1000 ∧
      timeReached (readback (some 1000) true).now 1000 = true ∧
      (readback (some 1000) true).points[(63 : PointId)].readback = true ∧
      (readback (some 1000) true).points[(63 : PointId)].pstate = .normal ∧
      (readback (some 1000) true).points[(63 : PointId)].sense ≠ (readback (some 1000) true).points[(63 : PointId)].level) ∧
    ((readback (some 1000) false).points[(63 : PointId)].window = some 1000 ∧
      (readback (some 1000) false).points[(63 : PointId)].sense =
        (readback (some 1000) false).points[(63 : PointId)].level) ∧
    (true ≠ (readback none false).points[(63 : PointId)].sense ∧
      (readback none false).points[(63 : PointId)].readback = true ∧
      (readback none false).points[(63 : PointId)].pstate = .normal ∧
      (readback none false).points[(63 : PointId)].window = none ∧
      true ≠ (readback none false).points[(63 : PointId)].level ∧ (readback none false).dstate = .run) ∧
    running.points[(63 : PointId)].readback = false ∧ faulted.points[(3 : PointId)].pstate = .faulted ∧
      (readback (some 1001) false).points[(63 : PointId)].window ≠ none ∧
      false = (readback none true).points[(63 : PointId)].level ∧ (initial 0).dstate = .init := by
  decide +kernel

/-- R16, a closure's LEVEL change first: the window that would end now is restarted, and the sense line, OFF, is compared
at the end of the new one alone. -/
theorem test_closure_restarts_window :
    (after (exec (.settleWindowEnd 63)
      ⟨(running.setPoint 63
        { Point.atReset false with readback := true, group := 1, level := true, window := some 1000 }).closeGroup 0,
        []⟩)).map (fun d => (d.points[(63 : PointId)].pstate, d.points[(63 : PointId)].window)) =
      some (.normal, some 1200) := by
  decide +kernel

/-- Input 31 with DEBOUNCE `debounce` and levels `level`, its pin low. -/
def debounced (debounce : Byte) (level : Bool) : Device :=
  running.setInput 31 { Input.atReset false with debounce := debounce, raw := level, qualified := level }

theorem witness_RawTransitionHandled :
    running.inputs[(31 : InputId)].moved = false ∧
    (running.setInput 31 { Input.atReset true with moved := true }).inputs[(31 : InputId)].moved = true ∧
    (∀ l : Bool, ∀ b ∈ [(0 : Byte), 255], (debounced b l).inputs[(31 : InputId)].moved = false ∧
      ((!(debounced b l).inputs[(31 : InputId)].pin) != (debounced b l).inputs[(31 : InputId)].invert) = true) ∧
    (true = (debounced 255 true).inputs[(31 : InputId)].qualified ∧
      true ≠ (debounced 255 false).inputs[(31 : InputId)].qualified ∧
      (debounced 255 false).inputs[(31 : InputId)].debounce ≠ 0 ∧
      true ≠ (debounced 0 false).inputs[(31 : InputId)].qualified ∧
      (debounced 0 false).inputs[(31 : InputId)].debounce = 0) := by
  decide +kernel

theorem witness_EdgeEventSteps :
    (edging 7).inputs[(31 : InputId)].pendingSince = some 7 ∧ (edging 7).dstate = .run ∧
      ({ edging 7 with dstate := .configure } : Device).dstate ≠ .run ∧
      timeReached 25507 ((7 : Time) + BitVec.ofNat 32 ((edging 7).inputs[(31 : InputId)].debounce.toNat * 100)) =
        true ∧
      timeReached 25506 ((7 : Time) + BitVec.ofNat 32 ((edging 7).inputs[(31 : InputId)].debounce.toNat * 100)) =
        false := by
  decide +kernel

theorem witness_CompletionAcceptedCoalesces :
    (let d : Device := { running with c1 := { openCRing with countdown := some 1000 } }
     (d.cring .c1).countdown = some 1000 ∧ timeReached d.now 1000 = true) ∧
    ((writing openCRing).cring .c1).inflight ≠ none ∧
      ((writing openCRing).cring .c1).queue = [0] := by
  decide +kernel

theorem witness_CompletionWriteFails :
    (let d : Device := { running with c0 := { openCRing with inflight := some ⟨0, 0, 0⟩ } }
     d.c0.inflight ≠ none ∧ d.operational = true) ∧
    (writing openCRing).c1.inflight ≠ none ∧
    (let d : Device := cut (holds { writing openCRing with c0 := { openCRing with queue := [1] } } 1
       (entry 1 setRecord (.answered ⟨.done, 0, 900⟩)))
     d.c1.inflight ≠ none ∧ d.busReady = false ∧ d.faultC1.mayIssue .c0 = true ∧ d.faultC1.queueHead .c0 ≠ none) := by
  decide +kernel

theorem witness_ReadEnds :
    (∀ r : RingId, (reading r false 2).channel = some ⟨r, 0, 2, 0, 64, false, 600⟩ ∧
      [setRecord, pulseRecord].length = 2 ∧
      (reading r false 2).rings[r].buf.length + 2 ≤ (reading r false 2).rings[r].available ∧
      (reading r false 1).rings[r].available < (reading r false 1).rings[r].buf.length + 2) ∧
    (reading 1 true 2).channel = some ⟨1, 0, 2, 0, 64, true, 600⟩ ∧ (reading 0 false 2).operational = true ∧
    timeReached (reading 1 false 2).now ((600 : Time) + 400) = true ∧
      timeReached 999 ((600 : Time) + 400) = false := by
  decide +kernel

theorem witness_RingFaultCancelsEntries :
    (4 : RingId) ≠ 0 ∧ running.rings[(4 : RingId)].state = .active ∧
      (withRing running 4 .resetting).rings[(4 : RingId)].state ≠ .active ∧
      (running.cring (running.binding 4)).state ≠ .faulted ∧
      claimed.points[(3 : PointId)].claim = some 5 ∧
      claimed.slots[(5 : Slot)] = some (entry 1 pulseRecord (.timed none)) ∧
      isLiveOf 1 claimed.slots[(5 : Slot)] = true ∧ pointOf (entry 1 pulseRecord (.timed none)).record = 3 ∧
      isLiveOf 2 claimed.slots[(5 : Slot)] = false := by
  decide +kernel

theorem witness_PassSettlesGates :
    ({ gated with dstate := .run } : Device).dstate = .run ∧ ({ gated with dstate := .run } : Device).GatesOrdered ∧
      gated.dstate ≠ .run := by
  unfold Device.GatesOrdered; decide +kernel

theorem witness_ClosureAndOpening :
    (grouped true).points[(3 : PointId)].group = (6 : Fin 7).succ ∧
      (grouped true).points[(4 : PointId)].group ≠ (6 : Fin 7).succ ∧
      (let d : Device := claimed.setPoint 3 { claimed.points[(3 : PointId)] with group := 7 }
       let ended := (List.finRange 64).filterMap
         (fun p => if d.points[p].group = (6 : Fin 7).succ then d.points[p].claim else none)
       ended = [5] ∧ ended.Nodup ∧ ∀ a ∈ ended, d.slots[a] ≠ none) := by
  decide +kernel

/-- The checks of the action stage for a released SET of point 3 with these FLAGS: a FAULTED point, a CLOSED gate with
and without WAITGATE, and an OPEN gate with the point unclaimed and claimed. -/
theorem witness_ClosureAndOpening_2 :
    (let e (flags : Byte) : Entry := entry 1 (record [1, flags, 0, 0, 3]) .gateWait
     let d (x : Device) (flags : Byte) : Device := holds x 59 (e flags)
     (3 : PointId) = pointOf (e 4).record ∧ actionKindOf (e 4).record = some .set ∧ isOnEffect .set = true ∧
     (d faulted 4).slots[(59 : Slot)] = some (e 4) ∧ (d faulted 4).points[(3 : PointId)].pstate = .faulted ∧
     (d (grouped false) 4).points[(3 : PointId)].pstate = .normal ∧
     (d (grouped false) 4).gateOpen (d (grouped false) 4).points[(3 : PointId)].group = false ∧
     waitGateOf (e 4).record = true ∧ waitGateOf (e 0).record = false ∧
     (d (grouped false) 4).points[(3 : PointId)].group = (6 : Fin 7).succ ∧
     (d (grouped true) 4).gateOpen (d (grouped true) 4).points[(3 : PointId)].group = true ∧
     (d (grouped true) 4).points[(3 : PointId)].claim = none ∧
     (d claimed 4).gateOpen (d claimed 4).points[(3 : PointId)].group = true ∧
     (d claimed 4).points[(3 : PointId)].claim = some 5 ∧
     supersedeOf (e 2).record = true ∧ supersedeOf (e 4).record = false) := by
  decide +kernel

/-- RUN with a record to fetch on each of these rings, the last grant as given. -/
def fetching (rs : List RingId) (last : RingId) : Device :=
  { rs.foldl (fun d r => d.setRing r { d.rings[r] with producer := 1 }) running with lastGrant := last }

theorem witness_ReadGrants :
    (fetching [0, 1] 4).requests 0 = true ∧
      (let d := fetching [1, 2, 4] 2
       d.requests 0 = false ∧ 1 ≤ d.lastGrant.val ∧ d.requests 4 = true ∧
         ∀ q : RingId, q ≠ 0 → d.requests q = true →
           ((4 : RingId).val + 7 - d.lastGrant.val) % 4 ≤ (q.val + 7 - d.lastGrant.val) % 4) ∧
      ((fetching [0, 1] 4).channel = none ∧ (fetching [0, 1] 4).arbiter = some 0 ∧
        (cut (fetching [0, 1] 4)).arbiter = some 0 ∧ (cut (fetching [1] 4)).arbiter = some 1 ∧
        (cut (fetching [1] 4)).busReady = false ∧ (fetching [1] 4).busReady = true) ∧
      running.channel = none ∧ running.arbiter = none ∧ (reading 1 false 2).channel ≠ none := by
  decide +kernel

theorem witness_CompletionWritesFormed :
    (let d : Device := cut (holds { running with c0 := { openCRing with queue := [0] }, c1 := CRing.atReset } 0
       (entry 1 setRecord (.answered ⟨.done, 0, 900⟩)))
     d.busReady = false ∧ d.mayIssue .c1 = false ∧ d.mayIssue .c0 = true ∧
       d.queueHead .c0 = some (entry 1 setRecord (.answered ⟨.done, 0, 900⟩), ⟨.done, 0, 900⟩)) ∧
    (writing openCRing).c1.inflight ≠ none ∧ running.c1.inflight = none ∧ running.mayIssue .c1 = true ∧
      running.queueHead .c1 = none ∧ (cut running).busReady = false := by
  decide +kernel

theorem witness_CompletionWritesFormed_2 : (cut running).NothingDue :=
  ⟨fun n _ => by cases n <;> decide +kernel, fun _ => by decide +kernel⟩

theorem witness_DeviceStateTransitions :
    after (exec .supervisionLapse ⟨running, []⟩) ≠ none ∧ resets .supervisionLapse = false ∧
      (running.halt .c0flt).dstate = .halted ∧ after (exec (.alertWrite 0) ⟨running.halt .c0flt, []⟩) ≠ none := by
  decide +kernel

theorem witness_ConfigurationKept :
    after (exec .forceGroup (offers running 0 (record [0x19, 0, 0, 0, 7, 1]))) ≠ none ∧ resets .forceGroup = false ∧
      running.dstate ≠ .configure ∧ Instr.enterRun ≠ .forceGroup ∧ Instr.enterRun ≠ .settleWindowEnd 0 ∧
      Instr.enterRun ≠ .senseChange 0 true ∧ Instr.enterRun ≠ .clearPointFault := by
  decide +kernel

theorem witness_QuietOutsideRunKept :
    (offers gated 0 strictRecord).dev.QuietOutsideRun ∧ running.QuietOutsideRun ∧
      after (step (offers gated 0 strictRecord)) ≠ none := by
  unfold Device.QuietOutsideRun; decide +kernel

theorem witness_GatesSettledKept :
    running.GatesOrdered ∧ running.GatesSettled ∧ after (step (offers running 1 setRecord)) ≠ none := by
  unfold Device.GatesOrdered Device.GatesSettled; decide +kernel

theorem witness_TableKept :
    claimed.PoolsKept ∧ claimed.QuotasKept ∧ claimed.NoIntake ∧ after (step ⟨claimed, []⟩) ≠ none := by
  refine ⟨fun a e h => ?_, by unfold Device.QuotasKept; decide +kernel, fun a e h => ?_, by decide +kernel⟩
  · obtain ⟨rfl, rfl⟩ := claimed_slot a e h
    decide
  · obtain ⟨rfl, rfl⟩ := claimed_slot a e h
    decide

/-- The claimed point, a FAULTED one beside it, and the command that expires the claim's timer. -/
theorem witness_TableKept_2 :
    claimed.ClaimsTied ∧ claimed.FaultedOff ∧ claimed.TimersTied ∧ claimed.WaitsTied ∧ claimed.QueuesTied ∧
      claimed.QuietOutsideRun ∧ faulted.FaultedOff ∧
      after (step ⟨{ claimed with now := 1050 }, [.outputTimerExpiry]⟩) ≠ none := by
  refine ⟨claimed_claimsTied, by unfold Device.FaultedOff; decide +kernel, claimed_timersTied, ⟨fun k => ?_, fun i => ?_⟩,
    ⟨by decide +kernel, fun a h => ?_⟩, fun h => absurd rfl h, by unfold Device.FaultedOff; decide +kernel,
    by decide +kernel⟩
  · have hk : ∀ k : Fin 7, claimed.groups[k].waits = [] := by decide +kernel
    rw [hk k]
    exact ⟨List.nodup_nil, fun a h => by cases h⟩
  · have hi : ∀ i : InputId, claimed.inputs[i].waits = [] := by decide +kernel
    rw [hi i]
    exact ⟨List.nodup_nil, fun a h => by cases h⟩
  · have hq : claimed.c0.queue ++ claimed.c1.queue = [] := by decide +kernel
    rw [hq] at h
    cases h

theorem witness_IndicesBoundedKept :
    (reading 1 false 2).RingsBounded ∧ (reading 1 false 2).CompletionsBounded ∧
      after (step ⟨reading 1 false 2, [.readArrival [setRecord, pulseRecord]]⟩) ≠ none := by
  unfold Device.RingsBounded Device.CompletionsBounded CRing.Bounded; decide +kernel

end Sys2Proof.Tests
end

section
/-! What a step keeps: a reset command makes its reset, and every other command is a chain of small changes. -/

namespace Sys2Proof.Machine

variable {c : Instr} {s0 : DState} {d d' : Device}

/-- A reset command makes the reset of some cause and does no more (R174, R176). -/
theorem exec_of_resets (c : Instr) (s : State) (hr : resets c = true) :
    ∃ cause, exec c s = .next { s with dev := s.dev.applyReset cause } := by
  have control (v : Word) (hv : resetBit v = true) : s.dev.writeControl v = s.dev.applyReset .control :=
    if_pos hv
  cases c with
  | powerOnReset => exact ⟨_, rfl⟩
  | linkReset => exact ⟨_, rfl⟩
  | controlReset v | enable v | ic0en v | ic1en v | alerten v =>
    exact ⟨.control, control v hr ▸ rfl⟩
  | registerWriteOther offset width v =>
    simp only [resets, Bool.and_eq_true, beq_iff_eq] at hr
    obtain ⟨⟨rfl, rfl⟩, hv⟩ := hr
    exact ⟨.control, control v hv ▸ rfl⟩
  | _ => cases hr

/-- A condition that every small change keeps is kept by every chain. -/
theorem Changes.keep {P : Device → Prop} (hP : ∀ d d', Change c s0 d d' → P d → P d') (h : Changes c s0 d d')
    (hd : P d) : P d' := by
  induction h with
  | refl => exact hd
  | tail _ hlast ih => exact hP _ _ hlast ih

/-- A field that every small change keeps is kept by every chain. -/
theorem Changes.field_eq {α : Type} {f : Device → α} (hf : ∀ d d', Change c s0 d d' → f d' = f d)
    (h : Changes c s0 d d') : f d' = f d :=
  Changes.keep (P := fun x => f x = f d) (fun x y hc hx => (hf x y hc).trans hx) h rfl

/-- An invariant that a reset gives, that time keeps and that every small change keeps is kept by every step. -/
theorem step_keeps {P : Device → Prop} (hreset : ∀ (d : Device) (cause : RCause), P (d.applyReset cause))
    (htick : ∀ d : Device, P d → P d.tick)
    (hchange : ∀ (c : Instr) (s0 : DState) (d d' : Device), Change c s0 d d' → P d → P d')
    {s t : State} (hs : P s.dev) (hst : step s = .next t) : P t.dev := by
  have hexec (c : Instr) (s : State) (hs : P s.dev) (hst : exec c s = .next t) : P t.dev := by
    cases hr : resets c with
    | true =>
      obtain ⟨cause, he⟩ := exec_of_resets c s hr
      rw [he, Host.Outcome.next.injEq] at hst
      subst hst
      exact hreset _ _
    | false =>
      obtain ⟨d, he, hch⟩ := exec_changes c s hr
      rw [he, Host.Outcome.next.injEq] at hst
      subst hst
      exact Changes.keep (hchange c s.dev.dstate) hch hs
  unfold step at hst
  split at hst
  next c rest _ => exact hexec c { s with pending := rest } hs hst
  · unfold idle at hst
    split at hst
    · exact hexec _ _ hs hst
    · cases hst
      exact htick _ hs

end Sys2Proof.Machine
end

section
/-! The configuration, FORCE and PSTATE change by their own commands alone (O55). -/

namespace Sys2Proof.Machine

/-- The configuration serialization, read from the configuration alone (12.6). -/
def Setup.serialization (x : Setup) : List Byte :=
  x.points.toList.map (fun p =>
      BitVec.ofNat 8 (p.1.val + (if p.2.1 = .held then 0x10 else 0) + (if p.2.2 then 0x20 else 0))) ++
    x.inputs.toList.flatMap (fun i => [i.1, flagByte i.2]) ++ x.zones.toList.flatMap zoneConfigBytes ++
    x.groups.toList.flatMap (fun g => BitVec.ofNat 8 g.1 :: g.2.toList.map literalByte) ++
    bytesOf 2 x.interval.toNat

theorem serialization_eq_setup (d : Device) : d.serialization = d.setup.serialization := by
  simp only [Setup.serialization, Device.setup, Vector.toList_map, List.map_map, List.flatMap_map]
  rfl

/-- The digest is a function of the configuration (R188). -/
theorem digestValue_eq_of_setup_eq {d d' : Device} (h : d'.setup = d.setup) : d'.digestValue = d.digestValue := by
  rw [Device.digestValue, Device.digestValue, serialization_eq_setup, serialization_eq_setup, h]

/-! ## What a small change keeps -/

variable {c : Instr} {s0 : DState} {d d' : Device}

/-- Command `c` is none of the five records that define the configuration (12.6). -/
def DefinesNothing (c : Instr) : Prop :=
  c ≠ .definePoint ∧ c ≠ .defineInput ∧ c ≠ .defineZone ∧ c ≠ .defineGroup ∧ c ≠ .setSupervision

/-- Two devices whose points, inputs and groups have the same configuration, with the same zones and interval, have
the same configuration. -/
theorem setup_eq_of_fields (hp : ∀ p : PointId, d'.points[p].group = d.points[p].group ∧
      d'.points[p].mode = d.points[p].mode ∧ d'.points[p].readback = d.points[p].readback)
    (hi : ∀ i : InputId, d'.inputs[i].debounce = d.inputs[i].debounce ∧ d'.inputs[i].invert = d.inputs[i].invert)
    (hz : d'.zones = d.zones)
    (hg : ∀ k : Fin 7, d'.groups[k].terms = d.groups[k].terms ∧ d'.groups[k].lits = d.groups[k].lits)
    (hs : d'.sup.interval = d.sup.interval) : d'.setup = d.setup := by
  simp only [Device.setup, Setup.mk.injEq]
  refine ⟨Vector.ext fun n hn => ?_, Vector.ext fun n hn => ?_, hz, Vector.ext fun n hn => ?_, hs⟩
  · obtain ⟨hgroup, hmode, hread⟩ := hp ⟨n, hn⟩
    simp_all
  · obtain ⟨hdeb, hinv⟩ := hi ⟨n, hn⟩
    simp_all
  · obtain ⟨hterms, hlits⟩ := hg ⟨n, hn⟩
    simp_all

theorem Change.setup_eq (h : Change c s0 d d') (hc : s0 ≠ .configure ∨ DefinesNothing c) : d'.setup = d.setup := by
  cases h
  case points v h =>
    exact setup_eq_of_fields (fun p => ⟨(h p).1, (h p).2.1, (h p).2.2.1⟩) (fun _ => ⟨rfl, rfl⟩) rfl
      (fun _ => ⟨rfl, rfl⟩) rfl
  case groups v h =>
    exact setup_eq_of_fields (fun _ => ⟨rfl, rfl, rfl⟩) (fun _ => ⟨rfl, rfl⟩) rfl
      (fun k => ⟨(h k).1, (h k).2.1⟩) rfl
  case inputs v h =>
    exact setup_eq_of_fields (fun _ => ⟨rfl, rfl, rfl⟩) (fun i => ⟨(h i).1, (h i).2.1⟩) rfl
      (fun _ => ⟨rfl, rfl⟩) rfl
  case supervision v h =>
    exact setup_eq_of_fields (fun _ => ⟨rfl, rfl, rfl⟩) (fun _ => ⟨rfl, rfl⟩) rfl (fun _ => ⟨rfl, rfl⟩) h.1
  case queue n _ | cause n _ _ | writeIssued n _ _ | writeAccepted n _ | consumed n _ _ => cases n <;> rfl
  case drainBegun =>
    exact setup_eq_of_fields (fun _ => ⟨rfl, rfl, rfl⟩) (fun i => by simp) rfl (fun k => by simp) rfl
  case halted =>
    exact setup_eq_of_fields (fun p => by simp [Device.halt, Point.atHalt]) (fun i => by simp [Device.halt]) rfl
      (fun k => by simp [Device.halt]) rfl
  case pointDefined hs hd _ _ | inputDefined hs hd _ | zoneDefined hs hd | groupDefined hs hd _ _
      | intervalDefined hs hd =>
    subst hd
    simp [DefinesNothing, hs] at hc
  all_goals rfl

theorem Change.force_eq (h : Change c s0 d d') (hc : c ≠ .forceGroup) (k : Fin 7) :
    d'.groups[k].force = d.groups[k].force := by
  cases h
  case groups v h =>
    obtain ⟨-, -, -, -, hf⟩ := h k
    exact hf.resolve_right hc
  case queue n _ | cause n _ _ | writeIssued n _ _ | writeAccepted n _ | consumed n _ _ => cases n <;> rfl
  case drainBegun => simp
  case halted => simp [Device.halt]
  case groupDefined j v hs hd hv ho =>
    by_cases hj : j.val = k.val
    · obtain rfl : j = k := Fin.ext hj
      simpa using hv.2.2
    · simp [hj]
  all_goals rfl

theorem Change.pstate_eq (h : Change c s0 d d') (p : PointId) (hw : c ≠ .settleWindowEnd p)
    (hs : ∀ l, c ≠ .senseChange p l) (hf : c ≠ .clearPointFault) : d'.points[p].pstate = d.points[p].pstate := by
  cases h
  case points v h =>
    obtain ⟨-, -, -, -, hp⟩ := h p
    obtain hp | hp | ⟨l, hp⟩ | hp := hp
    · exact hp
    · exact absurd hp hw
    · exact absurd hp (hs l)
    · exact absurd hp hf
  case queue n _ | cause n _ _ | writeIssued n _ _ | writeAccepted n _ | consumed n _ _ => cases n <;> rfl
  case halted => simp [Device.halt, Point.atHalt]
  case pointDefined q v _ _ _ hp =>
    by_cases hq : q.val = p.val
    · obtain rfl : q = p := Fin.ext hq
      simpa using hp
    · simp [hq]
  all_goals rfl

/-- Settles O55: a command is a chain of small changes, each of which keeps the field. -/
theorem configurationKept : Obligations.ConfigurationKept := by
  intro c s t ht hr
  obtain ⟨d, hd, hch⟩ := exec_changes c s hr
  rw [hd, Host.Outcome.next.injEq] at ht
  subst ht
  refine ⟨fun hc => ?_, fun hc k => ?_, fun p hw hs hf => ?_⟩
  · have hsetup : d.setup = s.dev.setup := Changes.field_eq (fun _ _ h => h.setup_eq hc) hch
    exact ⟨hsetup, digestValue_eq_of_setup_eq hsetup⟩
  · exact Changes.field_eq (f := fun d => d.groups[k].force) (fun _ _ h => h.force_eq hc k) hch
  · exact Changes.field_eq (f := fun d => d.points[p].pstate) (fun _ _ h => h.pstate_eq p hw hs hf) hch

end Sys2Proof.Machine
end

section
/-! Outside RUN nothing is ON, timed, waiting or OPEN (O56). -/

namespace Sys2Proof.Machine

variable {c : Instr} {s0 : DState} {d d' : Device}

theorem applyReset_quiet (d : Device) (cause : RCause) : (d.applyReset cause).QuietOutsideRun := fun _ =>
  ⟨fun p => by simp [Device.applyReset, Device.afterReset, Point.atReset], rfl,
    fun k => by simp [Device.applyReset, Device.afterReset, Group.atReset],
    fun i => by simp [Device.applyReset, Device.afterReset, Input.atReset], rfl, rfl⟩

theorem tick_quiet (h : d.QuietOutsideRun) : d.tick.QuietOutsideRun := fun hr => by
  obtain ⟨hp, ht, hg, hi, hv⟩ := h hr
  exact ⟨hp, ht, hg, fun i => by simpa using hi i, hv⟩

theorem halt_quiet (d : Device) (reason : HReason) : (d.halt reason).QuietOutsideRun := fun _ =>
  ⟨fun p => by simp [Device.halt, Point.atHalt], rfl, fun k => by simp [Device.halt],
    fun i => by simp [Device.halt], rfl, rfl⟩

theorem setPoint_quiet {p : PointId} {v : Point} (hv : v.level = d.points[p].level) (h : d.QuietOutsideRun) :
    (d.setPoint p v).QuietOutsideRun := fun hr => by
  obtain ⟨hp, hrest⟩ := h hr
  refine ⟨fun q => ?_, hrest⟩
  by_cases hq : p = q
  · subst hq; simpa using hv.trans (hp p)
  · simpa [Fin.val_inj, hq] using hp q

theorem setInput_quiet {i : InputId} {v : Input} (hv : v.waits = d.inputs[i].waits) (h : d.QuietOutsideRun) :
    (d.setInput i v).QuietOutsideRun := fun hr => by
  obtain ⟨hp, ht, hg, hi, hs⟩ := h hr
  refine ⟨hp, ht, hg, fun j => ?_, hs⟩
  by_cases hj : i = j
  · subst hj; simpa using hv.trans (hi i)
  · simpa [Fin.val_inj, hj] using hi j

theorem setGroup_quiet {k : Fin 7} {v : Group} (hv : v.gate = d.groups[k].gate ∧ v.waits = d.groups[k].waits)
    (h : d.QuietOutsideRun) : (d.setGroup k v).QuietOutsideRun := fun hr => by
  obtain ⟨hp, ht, hg, hrest⟩ := h hr
  refine ⟨hp, ht, fun j => ?_, hrest⟩
  by_cases hj : k = j
  · subst hj
    simpa using And.intro (hv.1.trans (hg k).1) (hv.2.trans (hg k).2)
  · simpa [Fin.val_inj, hj] using hg j

/-- Every small change keeps the block quiet outside RUN (R20, R77, R84, R93, R114, R124, R172). -/
theorem Change.quiet (h : Change c s0 d d') (hq : d.QuietOutsideRun) : d'.QuietOutsideRun := by
  cases h
  case timing l h =>
    intro hr
    obtain ⟨hp, ht, hrest⟩ := hq hr
    exact ⟨hp, h.resolve_left hr ht, hrest⟩
  case points v h =>
    intro hr
    obtain ⟨hp, hrest⟩ := hq hr
    refine ⟨fun p => Bool.eq_false_iff.mpr fun hl => ?_, hrest⟩
    obtain ⟨-, -, -, hlevel, -⟩ := h p
    exact Bool.false_ne_true ((hp p).symm.trans ((hlevel hl).resolve_left hr))
  case groups v h =>
    intro hr
    obtain ⟨hp, ht, hg, hrest⟩ := hq hr
    refine ⟨hp, ht, fun k => ?_, hrest⟩
    obtain ⟨-, -, hgate, hwaits, -⟩ := h k
    exact ⟨Bool.eq_false_iff.mpr fun ho => Bool.false_ne_true ((hg k).1.symm.trans ((hgate ho).resolve_left hr)),
      hwaits.resolve_left hr (hg k).2⟩
  case inputs v h =>
    intro hr
    obtain ⟨hp, ht, hg, hi, hs⟩ := hq hr
    exact ⟨hp, ht, hg, fun i => (h i).2.2.resolve_left hr (hi i), hs⟩
  case supervision v h =>
    intro hr
    obtain ⟨hp, ht, hg, hi, hsup, -⟩ := hq hr
    exact ⟨hp, ht, hg, hi, (h.2.resolve_left hr).resolve_left (not_not.mpr hsup)⟩
  case queue n _ | cause n _ _ | writeIssued n _ _ | writeAccepted n _ | consumed n _ _ => cases n <;> exact hq
  case bootBegun h _ _ => exact fun _ => hq (by simp [h])
  case booted b h _ _ _ => exact fun _ => hq (by simp [h])
  case runEntered => exact fun hr => absurd rfl hr
  case drainBegun hp hg hv =>
    exact fun _ => ⟨hp, rfl, fun k => by simpa using hg k, fun i => by simp, hv⟩
  case drainEnded h _ => exact fun _ => hq (by simp [h])
  case halted reason _ _ _ => exact halt_quiet d reason
  case pointDefined hl _ => exact setPoint_quiet hl hq
  case inputDefined hw => exact setInput_quiet hw hq
  case groupDefined hv _ => exact setGroup_quiet ⟨hv.1, hv.2.1⟩ hq
  all_goals exact hq

/-- Settles O56: a reset gives the condition, and the tick and every small change keep it. -/
theorem quietOutsideRunKept : Obligations.QuietOutsideRunKept := fun _ _ hs hst =>
  step_keeps applyReset_quiet (fun _ => tick_quiet) (fun _ _ _ _ => Change.quiet) hs hst

end Sys2Proof.Machine
end

section
/-! Events on one point: the expiry of an output timer (O39, O40), readback (O42), the defining records (O28), and what
the entry into HALTED keeps (O48). -/

namespace Sys2Proof.Machine

/-! ## The entry into HALTED -/

theorem halt_setup (d : Device) (reason : HReason) : (d.halt reason).setup = d.setup :=
  setup_eq_of_fields (fun p => by simp [Device.halt, Point.atHalt]) (fun i => by simp [Device.halt]) rfl
    (fun k => by simp [Device.halt]) rfl

/-- Settles O48, field by field of R184 and R170. -/
theorem haltDiscardsWork : Obligations.HaltDiscardsWork := by
  intro d t reason ht
  subst ht
  refine ⟨⟨rfl, rfl, rfl, rfl, rfl, rfl, rfl, rfl, rfl, rfl⟩, fun a => ?_, fun p => ?_, fun k => ?_, fun i => ?_,
    fun r => ?_, rfl, ⟨rfl, rfl, rfl, rfl, rfl, rfl, rfl⟩, halt_setup d reason⟩
  all_goals simp [Device.halt, Point.atHalt]

/-! ## The expiry of an output timer -/

/-- In RUN the first entry of the Timing List expires once its due time is reached. -/
theorem dueTimer_of_reached {d : Device} {timer : TimerEntry} {others : List TimerEntry} (hrun : d.dstate = .run)
    (ht : d.timing = timer :: others) (hdue : timeReached d.now timer.due = true) :
    d.dueTimer = some (timer, others) := by
  simp [Device.dueTimer, ht, hdue, hrun]

/-- The expiry of an OUTPUT_TIMER is the step of its owner, closed (R71). -/
theorem closes_outputTimer {s : State} {timer : TimerEntry} {others : List TimerEntry} {x : Device}
    (hrun : s.dev.dstate = .run) (ht : s.dev.timing = timer :: others) (hk : timer.kind = .outputTimer)
    (hdue : timeReached s.dev.now timer.due = true)
    (hx : ({ s.dev with timing := others } : Device).expireOutput timer.owner timer.due = x) :
    Closes .outputTimerExpiry s x := by
  refine closes_event (f := fun d => ({ d with timing := others } : Device).expireOutput timer.owner timer.due) ?_ hx
  simp [exec, execOutputTimerExpiry, State.run, dueTimer_of_reached hrun ht hdue, hk]

/-- What the expiry does to a TIMED owner of each kind (R10, R11, R13). -/
theorem expireOutput_timed {d : Device} {a : Slot} {due : Time} {e : Entry} {b : Option Blink}
    (he : d.slots[a] = some e) (hst : e.st = .timed b) :
    (actionKindOf e.record = some .pulse → d.expireOutput a due = d.finishTimed a e false) ∧
    (actionKindOf e.record = some .delaySet → d.expireOutput a due = d.finishTimed a e true) ∧
    (actionKindOf e.record = some .delayClear → d.expireOutput a due = d.finishTimed a e false) ∧
    (∀ progress, actionKindOf e.record = some .blink → b = some progress →
      d.expireOutput a due = d.expireBlink a e due progress) := by
  unfold Device.expireOutput
  rw [he]
  dsimp only
  rw [hst]
  refine ⟨fun hk => ?_, fun hk => ?_, fun hk => ?_, fun progress hk hb => ?_⟩
  · simp [hk]
  · simp [hk]
  · simp [hk]
  · simp [hk, hb]

/-- Settles O39: the owner's kind gives the level its end drives. -/
theorem outputTimerEndsAction : Obligations.OutputTimerEndsAction := by
  intro s timer others e b l hrun ht hk hdue he hst hkind
  refine closes_outputTimer hrun ht hk hdue ?_
  obtain ⟨hpulse, hset, hclear, -⟩ := expireOutput_timed (d := { s.dev with timing := others }) (due := timer.due) he hst
  obtain ⟨hkind, rfl⟩ | ⟨hkind, rfl⟩ | ⟨hkind, rfl⟩ := hkind
  · exact hpulse hkind
  · exact hset hkind
  · exact hclear hkind

/-- Settles O40, by the phase and the cycles that remain (R13). -/
theorem blinkSteps : Obligations.BlinkSteps := by
  intro s timer others e b x hrun ht hk hdue he hst hkind hx
  subst hx
  obtain ⟨-, -, -, hblink⟩ := expireOutput_timed (d := { s.dev with timing := others }) (due := timer.due) he hst
  have hstep := hblink b hkind rfl
  refine ⟨fun hon hlast => ?_, fun n hon hmore => ?_, fun hoff => ?_⟩
  · refine closes_outputTimer hrun ht hk hdue (hstep.trans ?_)
    simp [Device.expireBlink, hon, hlast, Device.finishTimed]
  · refine closes_outputTimer hrun ht hk hdue (hstep.trans ?_)
    simp [Device.expireBlink, hon, hmore]
    rfl
  · refine closes_outputTimer hrun ht hk hdue (hstep.trans ?_)
    simp [Device.expireBlink, hoff]
    rfl

/-! ## Readback -/

/-- A point disagrees with its sense line when readback is on, it is NORMAL and the two levels differ (R16). -/
theorem Point.disagrees_iff (p : Point) :
    p.disagrees = true ↔ p.readback = true ∧ p.pstate = .normal ∧ p.sense ≠ p.level := by
  simp [Point.disagrees, and_assoc]

/-- A point that is not read back, is FAULTED or senses its level does not disagree. -/
theorem Point.disagrees_eq_false {p : Point} (h : p.readback = false ∨ p.pstate = .faulted ∨ p.sense = p.level) :
    p.disagrees = false := by
  refine Bool.eq_false_iff.mpr fun hd => ?_
  obtain ⟨hr, hp, hs⟩ := p.disagrees_iff.mp hd
  simp [hr, hp, hs] at h

/-- A point fault, its claim ended with it (R17). -/
theorem pointFault_eq (d : Device) (p : PointId) :
    d.pointFault p =
      { (match d.points[p].claim with
         | none => d.setPoint p { d.points[p] with pstate := .faulted, window := none, level := false }
         | some a =>
           (d.setPoint p { d.points[p] with pstate := .faulted, window := none, level := false, claim := none }).answer
             a .cxptflt 0) with
        alert := d.alert ||| 0x40 } := by
  unfold Device.pointFault Device.cancelClaim
  simp only [Fin.getElem_fin, Device.setPoint_points, Vector.getElem_set_self, BitVec.ofNat_eq_ofNat]
  cases hc : d.points[p.val].claim with
  | none => rfl
  | some a => simp [Device.setClaim, Device.raiseAlert, Device.setPoint]; rfl

theorem readbackRuns_iff (d : Device) :
    d.readbackRuns = true ↔ d.dstate = .configure ∨ d.dstate = .run ∨ d.dstate = .draining := by
  simp [Device.readbackRuns, or_assoc]

theorem exec_settleWindowEnd {s : State} {p : PointId} {due : Time} (hw : s.dev.points[p].window = some due)
    (hdue : timeReached s.dev.now due = true) :
    exec (.settleWindowEnd p) s = .next { s with dev := s.dev.event (Device.windowEnds p) } := by
  simp only [exec, execSettleWindowEnd, State.run, hw, dueReached, hdue, if_true]

theorem exec_senseChange {s : State} {p : PointId} {l : Bool} (hl : l ≠ s.dev.points[p].sense) :
    exec (.senseChange p l) s = .next { s with dev := s.dev.event (Device.senseChanges p l) } := by
  simp only [exec, execSenseChange, State.run, if_neg hl.symm]

/-- What a sense change does, by the test of R16 on the point with its new sense level. -/
theorem senseChanges_eq {d x : Device} {p : PointId} {l : Bool}
    (hx : x = d.setPoint p { d.points[p] with sense := l }) :
    d.senseChanges p l =
      if x.points[p].disagrees && x.points[p].window.isNone && x.readbackRuns then x.pointFault p else x := by
  subst hx
  rfl

/-- Settles O42: the window's end and the sense change each fault the point exactly when R16's test holds. -/
theorem pointFaultsFound : Obligations.PointFaultsFound := by
  intro s p fault hfault
  have fault_eq (d : Device) : d.pointFault p = fault d := (pointFault_eq d p).trans (hfault d).symm
  refine ⟨fun due hw hdue => ⟨fun h => ?_, fun h => ?_⟩, fun l x hl hx => ⟨fun h => ?_, fun h => ?_⟩⟩
  · refine closes_event (exec_settleWindowEnd hw hdue) ?_
    rw [Device.windowEnds, if_pos ((Point.disagrees_iff _).mpr h), fault_eq]
  · refine closes_event (exec_settleWindowEnd hw hdue) ?_
    rw [Device.windowEnds, if_neg (Bool.eq_false_iff.mp (Point.disagrees_eq_false h))]
  · refine closes_event (exec_senseChange hl) ?_
    obtain ⟨hread, hstate, hwin, hlevel, hrun⟩ := h
    have hpoint : x.points[p] = { s.dev.points[p] with sense := l } := by simp [hx]
    have hdis : x.points[p].disagrees = true :=
      (Point.disagrees_iff _).mpr (by rw [hpoint]; exact ⟨hread, hstate, hlevel⟩)
    have hopen : x.points[p].window.isNone = true := by rw [hpoint]; exact Option.isNone_iff_eq_none.mpr hwin
    have hback : x.readbackRuns = true := (readbackRuns_iff x).mpr (by rw [hx]; exact hrun)
    rw [senseChanges_eq hx, hdis, hopen, hback, ← fault_eq]
    rfl
  · refine closes_event (exec_senseChange hl) ?_
    have hpoint : x.points[p] = { s.dev.points[p] with sense := l } := by simp [hx]
    have hdis (hp : s.dev.points[p].readback = false ∨ s.dev.points[p].pstate = .faulted ∨
        l = s.dev.points[p].level) : x.points[p].disagrees = false :=
      Point.disagrees_eq_false (by rw [hpoint]; exact hp)
    rw [senseChanges_eq hx]
    refine if_neg fun hall => ?_
    simp only [Bool.and_eq_true, readbackRuns_iff] at hall
    obtain ⟨⟨hd, hwin⟩, hrun⟩ := hall
    obtain h | h | h | h | h := h
    · exact Bool.false_ne_true ((hdis (.inl h)).symm.trans hd)
    · exact Bool.false_ne_true ((hdis (.inr (.inl h))).symm.trans hd)
    · rw [hpoint] at hwin
      exact h (Option.isNone_iff_eq_none.mp hwin)
    · exact Bool.false_ne_true ((hdis (.inr (.inr h))).symm.trans hd)
    · have hd' : x.dstate = s.dev.dstate := by rw [hx]; rfl
      rw [hd'] at hrun
      obtain h | h | h := h <;> simp [h] at hrun

/-! ## Points and inputs defined -/

/-- A checked record of ring 0 that passes its checks is applied and answered DONE (R179). -/
theorem closes_checked {c : Instr} {s : State} {k : AdminKind} {head : RawRecord} {rest : List RawRecord} {a : Slot}
    {ok : RawRecord → Bool} {apply : RawRecord → Device → Device} {y : Device}
    (hc : exec c s = .next { s with dev := s.dev.takeAdmin k (Device.checked ok apply) })
    (ht : s.dev.TakesAdmin k head rest a) (hp : s.dev.adminPermitted k = true) (hok : ok head = true)
    (hy : apply head (s.dev.takeHead 0 a head rest) = y) : Closes c s (y.answer a .done 0) :=
  closes_admin hc ht hp (by rw [Device.checked, if_pos hok, hy])

/-- The point in byte 4 of a record, read as a number. -/
theorem pointOf_eq {record : RawRecord} {p : PointId} (h : p.val = (byteAt record 4).toNat) : pointOf record = p :=
  Fin.ext (by simp only [pointOf, Fin.val_ofNat]; omega)

/-- The input in byte 4 of a record, read as a number. -/
theorem inputNumberOf_eq {record : RawRecord} {i : InputId} (h : i.val = (byteAt record 4).toNat) :
    inputNumberOf record = i :=
  Fin.ext (by simp only [inputNumberOf, Fin.val_ofNat]; omega)

/-- The settle window after DEFINE_POINT, with READBACK from its byte (R2). -/
theorem definedWindow_eq (p : Point) (now : Time) {b : Byte} (hb : isFlagCode b = true) :
    definedWindow p now (b == 1) =
      if b = 0 then none
      else if p.readback = false ∧ p.pstate = .normal then some (now + 200) else p.window := by
  simp only [isFlagCode, Bool.or_eq_true, beq_iff_eq] at hb
  obtain rfl | rfl := hb
  · rfl
  · simp [definedWindow, settleTicks]

/-- Settles O28: each defining record, applied to the record it names. -/
theorem pointsAndInputsDefined : Obligations.PointsAndInputsDefined := by
  intro s head rest a
  refine ⟨fun p ht hs hok hp => ?_, fun i ht hs hok hi => ?_, ?_⟩
  · refine closes_checked rfl ht (by simp [Device.adminPermitted, hs]) hok ?_
    have hflag : isFlagCode (byteAt head 7) = true := by
      simp only [definePointOk, Bool.and_eq_true] at hok
      exact hok.2
    obtain rfl := pointOf_eq hp
    simp only [Device.applyPoint, definedPoint, definedWindow_eq _ _ hflag, Device.takeHead_points,
      Device.takeHead_now, beq_iff_eq]
  · refine closes_checked rfl ht (by simp [Device.adminPermitted, hs]) hok ?_
    obtain rfl := inputNumberOf_eq hi
    rfl
  · intro p ht hs hok hp
    refine closes_checked rfl ht (by simpa [Device.adminPermitted] using hs) hok ?_
    obtain rfl := pointOf_eq hp
    rfl

end Sys2Proof.Machine
end

section
/-! What one answer does, as one update of the device (R42, R51, R158), and what it commutes with. -/

namespace Sys2Proof.Machine

variable (d : Device)

/-- What an answer leaves in its slot: the answered entry, or nothing when its completion ring is FAULTED (R51). -/
def Device.answered (e : Entry) (st : Status) (x : Word) : Option Entry :=
  if (d.cring (d.binding e.ring)).state = .faulted then none else some { e with st := .answered ⟨st, x, d.now⟩ }

/-- Completion ring `n` after the entry `e` of slot `a` is answered: the slot joins the queue of its own ring, when that
is not FAULTED (R158). -/
def Device.joined (n : CRingId) (a : Slot) (e : Entry) : CRing :=
  { d.cring n with
    queue := (d.cring n).queue ++ if d.binding e.ring = n ∧ (d.cring n).state ≠ .faulted then [a] else [] }

/-- An answer of an empty slot is none. -/
theorem answer_none {a : Slot} (h : d.slots[a] = none) (st : Status) (x : Word) : d.answer a st x = d := by
  unfold Device.answer
  rw [h]

/-- An answer changes its slot, the Timing List and the two completion rings. -/
theorem answer_some {a : Slot} {e : Entry} (h : d.slots[a] = some e) (st : Status) (x : Word) :
    d.answer a st x =
      { d with
        slots := d.slots.set a (d.answered e st x)
        timing := d.timing.filter (fun t => t.owner != a)
        c0 := d.joined .c0 a e
        c1 := d.joined .c1 a e } := by
  unfold Device.answer Device.answered Device.joined
  rw [h]
  by_cases hf : (d.cring (d.binding e.ring)).state = .faulted
  · have other (n : CRingId) : ¬(d.binding e.ring = n ∧ (d.cring n).state ≠ .faulted) := by
      rintro ⟨rfl, hn⟩; exact hn hf
    simp only [hf, if_true, beq_self_eq_true, if_neg (other _), List.append_nil]
    rfl
  · simp only [beq_iff_eq, hf, if_false]
    cases hn : d.binding e.ring with
    | c0 | c1 =>
      rw [hn, Device.cring] at hf
      simp [hf, Device.pushAnswer]
      rfl

theorem answer_slots {a : Slot} {e : Entry} (h : d.slots[a] = some e) (st : Status) (x : Word) :
    (d.answer a st x).slots = d.slots.set a (d.answered e st x) := by rw [answer_some d h]

theorem answer_slot_same {a : Slot} {e : Entry} (h : d.slots[a] = some e) (st : Status) (x : Word) :
    (d.answer a st x).slots[a] = d.answered e st x := by
  simp [answer_slots d h]

/-- An answer leaves every other slot. -/
theorem answer_slot_ne {a b : Slot} (h : b ≠ a) (st : Status) (x : Word) :
    (d.answer a st x).slots[b] = d.slots[b] := by
  cases ha : d.slots[a] with
  | none => rw [answer_none d ha]
  | some e => simp [answer_slots d ha, Fin.val_inj, h.symm]

theorem answer_timing {a : Slot} {e : Entry} (h : d.slots[a] = some e) (st : Status) (x : Word) :
    (d.answer a st x).timing = d.timing.filter (fun t => t.owner != a) := by rw [answer_some d h]

theorem answer_cring {a : Slot} {e : Entry} (h : d.slots[a] = some e) (st : Status) (x : Word) (n : CRingId) :
    (d.answer a st x).cring n = d.joined n a e := by
  rw [answer_some d h]
  cases n <;> rfl

/-- An answer keeps the state of every completion ring. -/
@[simp] theorem answer_cring_state (a : Slot) (st : Status) (x : Word) (n : CRingId) :
    ((d.answer a st x).cring n).state = (d.cring n).state := by
  cases h : d.slots[a] with
  | none => rw [answer_none d h]
  | some e => rw [answer_cring d h]; rfl

@[simp] theorem answer_binding (a : Slot) (st : Status) (x : Word) (r : RingId) :
    (d.answer a st x).binding r = d.binding r := by
  simp [Device.binding]

/-! ## What an answer commutes with -/

/-- An answer neither reads nor changes a point. -/
theorem answer_withPoints (a : Slot) (st : Status) (x : Word) (ps : Vector Point 64) :
    ({ d with points := ps } : Device).answer a st x = { d.answer a st x with points := ps } := by
  cases h : d.slots[a] with
  | none => rw [answer_none d h, answer_none { d with points := ps } h]
  | some e =>
    rw [answer_some d h, answer_some { d with points := ps } h]
    rfl

/-- An answer neither reads nor changes a wait or a gate. -/
theorem answer_withWaits (a : Slot) (st : Status) (x : Word) (gs : Vector Group 7) (is : Vector Input 32) :
    ({ d with groups := gs, inputs := is } : Device).answer a st x =
      { d.answer a st x with groups := gs, inputs := is } := by
  cases h : d.slots[a] with
  | none => rw [answer_none d h, answer_none { d with groups := gs, inputs := is } h]
  | some e =>
    rw [answer_some d h, answer_some { d with groups := gs, inputs := is } h]
    rfl

/-- Withdrawals commute. -/
theorem withdraw_comm (a b : Slot) : (d.withdraw b).withdraw a = (d.withdraw a).withdraw b :=
  congrArg (fun l => { d with timing := l }) (List.filter_comm _ _ _)

@[simp] theorem withdraw_withdraw (a : Slot) : (d.withdraw a).withdraw a = d.withdraw a := by
  simp [Device.withdraw]

/-- A withdrawal commutes with an answer. -/
theorem withdraw_answer (a b : Slot) (st : Status) (x : Word) :
    (d.answer b st x).withdraw a = (d.withdraw a).answer b st x := by
  cases h : d.slots[b] with
  | none => rw [answer_none d h, answer_none (d.withdraw a) h]
  | some e =>
    rw [answer_some d h, answer_some (d.withdraw a) h]
    exact congrArg (fun l => { d with
      slots := d.slots.set b (d.answered e st x), timing := l, c0 := d.joined .c0 b e, c1 := d.joined .c1 b e })
      (List.filter_comm _ _ _)

/-- An answer withdraws its slot's timer (R69). -/
theorem answer_withdraw {a : Slot} {e : Entry} (h : d.slots[a] = some e) (st : Status) (x : Word) :
    (d.withdraw a).answer a st x = d.answer a st x := by
  rw [answer_some d h, answer_some (d.withdraw a) h]
  simp only [Device.withdraw, List.filter_filter, Bool.and_self]
  rfl

end Sys2Proof.Machine
end

section
/-! The action stage (1.2, 1.3), branch by branch, and the effect of each kind. -/

namespace Sys2Proof.Machine

variable (d : Device)

/-! ## Effects -/

/-- A timed kind begins: one update of the device (R4, R10 to R12, R68). -/
theorem beginTimed_eq {a : Slot} {entry : Entry} (h : d.slots[a] = some entry) (e : Entry) (b : Option Blink) :
    d.beginTimed a e b =
      { d with
        points := d.points.set (pointOf e.record) { d.points[pointOf e.record] with claim := some a }
        slots := d.slots.set a (some { entry with st := .timed b })
        timing := insertTimer ⟨a, .outputTimer, d.now + durationOf e.record⟩
          (d.timing.filter (fun t => t.owner != a)) } := by
  unfold Device.beginTimed Device.setEntryState
  rw [Device.withdraw_slots, h]
  rfl

/-- The effect by kind (R9 to R12). -/
def Device.kindEffect (k : ActionKind) (a : Slot) (e : Entry) : Device :=
  match k with
  | .set => (d.driveLevel (pointOf e.record) true).answer a .done 0
  | .clear => (d.driveLevel (pointOf e.record) false).answer a .done 0
  | .pulse => (d.driveLevel (pointOf e.record) true).beginTimed a e none
  | .delaySet | .delayClear => d.beginTimed a e none
  | .blink => (d.driveLevel (pointOf e.record) true).beginTimed a e (some ⟨true, cyclesOf e.record⟩)
  | .note | .keepalive => d

theorem effect_of_kind {e : Entry} {k : ActionKind} (hk : actionKindOf e.record = some k) (a : Slot) :
    d.effect a e = d.kindEffect k a e := by
  unfold Device.effect
  rw [hk]
  cases k <;> rfl

/-- The level a timed kind drives before its timer runs, as the device it leaves (R10 to R12). -/
def Device.timedStart (k : ActionKind) (p : PointId) : Device :=
  if k = .pulse ∨ k = .blink then d.driveLevel p true else d

/-- The progress a timed kind begins with (R12). -/
def firstBlink (k : ActionKind) (record : RawRecord) : Option Blink :=
  if k = .blink then some ⟨true, cyclesOf record⟩ else none

/-- The four kinds that claim their point and wait for their timer (R10 to R12). -/
def IsTimed (k : ActionKind) : Prop := k = .pulse ∨ k = .delaySet ∨ k = .delayClear ∨ k = .blink

theorem effect_of_timed {e : Entry} {k : ActionKind} (hk : actionKindOf e.record = some k) (ht : IsTimed k) (a : Slot) :
    d.effect a e = (d.timedStart k (pointOf e.record)).beginTimed a e (firstBlink k e.record) := by
  rw [effect_of_kind d hk]
  obtain rfl | rfl | rfl | rfl := ht <;> rfl

/-- The effect of an output kind withdraws the timer of its slot. -/
theorem effect_withdraw {a : Slot} {e entry : Entry} {k : ActionKind} (h : d.slots[a] = some entry)
    (hk : actionKindOf e.record = some k) (ho : isOutputKind k = true) : (d.withdraw a).effect a e = d.effect a e := by
  have begin_withdraw (x : Device) (b : Option Blink) : (x.withdraw a).beginTimed a e b = x.beginTimed a e b := by
    rw [Device.beginTimed, withdraw_withdraw]
    rfl
  rw [effect_of_kind _ hk, effect_of_kind _ hk]
  cases k with
  | set => exact answer_withdraw (d.driveLevel (pointOf e.record) true) h .done 0
  | clear => exact answer_withdraw (d.driveLevel (pointOf e.record) false) h .done 0
  | pulse => exact begin_withdraw (d.driveLevel (pointOf e.record) true) _
  | delaySet | delayClear => exact begin_withdraw d _
  | blink => exact begin_withdraw (d.driveLevel (pointOf e.record) true) _
  | note | keepalive => cases ho

/-! ## The branches of the stage -/

theorem recordOnEffect_of_kind {record : RawRecord} {k : ActionKind} (hk : actionKindOf record = some k) :
    recordOnEffect record = isOnEffect k := by
  rw [recordOnEffect, hk]

theorem gateOpen_succ (g : Fin 7) : d.gateOpen g.succ = d.groups[g].gate := by
  simp [Device.gateOpen]

section

variable {a : Slot} {e : Entry} (he : d.slots[a] = some e)

include he

/-- A FAULTED point answers PTFLT (R5). -/
theorem actionStage_faulted (hp : d.points[pointOf e.record].pstate = .faulted) :
    d.actionStage a = d.answer a .ptflt 0 := by
  rw [Device.actionStage, he]
  exact if_pos (by rw [hp]; rfl)

theorem actionStage_normal (hp : d.points[pointOf e.record].pstate = .normal) :
    d.actionStage a = d.gateCheck a e := by
  rw [Device.actionStage, he]
  exact if_neg (by rw [hp]; decide)

/-- An on-effect without WAITGATE at a CLOSED gate answers GATED with the group's number (R6). -/
theorem actionStage_gated {k : ActionKind} (hk : actionKindOf e.record = some k)
    (hp : d.points[pointOf e.record].pstate = .normal) (hon : isOnEffect k = true)
    (hg : d.gateOpen d.points[pointOf e.record].group = false) (hw : waitGateOf e.record = false) :
    d.actionStage a = d.answer a .gated (BitVec.ofNat 32 d.points[pointOf e.record].group.val) := by
  rw [actionStage_normal d he hp, Device.gateCheck, recordOnEffect_of_kind hk, hon, hg, hw]
  rfl

/-- An on-effect with WAITGATE at a CLOSED gate joins the group's wait list, its deadline kept (R6, R93). -/
theorem actionStage_gateWait {k : ActionKind} (hk : actionKindOf e.record = some k)
    (hp : d.points[pointOf e.record].pstate = .normal) (hon : isOnEffect k = true)
    (hg : d.gateOpen d.points[pointOf e.record].group = false) (hw : waitGateOf e.record = true) {g : Fin 7}
    (hgroup : d.points[pointOf e.record].group = g.succ) :
    d.actionStage a =
      { d with
        slots := d.slots.set a (some { e with st := .gateWait })
        groups := d.groups.set g { d.groups[g] with waits := d.groups[g].waits ++ [a] } } := by
  rw [actionStage_normal d he hp, Device.gateCheck, recordOnEffect_of_kind hk, hon, hg, hw, hgroup,
    Device.setEntryState, he]
  simp [Device.joinGate]
  rfl

/-- An entry that no gate stops comes to the claim check (R6). -/
theorem actionStage_claimCheck {k : ActionKind} (hk : actionKindOf e.record = some k)
    (hp : d.points[pointOf e.record].pstate = .normal)
    (hg : isOnEffect k = true → d.gateOpen d.points[pointOf e.record].group = true) :
    d.actionStage a = d.claimCheck a e := by
  rw [actionStage_normal d he hp, Device.gateCheck, recordOnEffect_of_kind hk]
  refine if_neg fun h => ?_
  simp only [Bool.and_eq_true, Bool.not_eq_true'] at h
  exact Bool.false_ne_true (h.2.symm.trans (hg h.1))

end

theorem claimCheck_unclaimed {e : Entry} (a : Slot) (hc : d.points[pointOf e.record].claim = none) :
    d.claimCheck a e = d.effect a e := by
  rw [Device.claimCheck, hc]

/-- At a claim an entry with SUPERSEDE ends it CXSUPER and has its own effect, and one without is BUSY (R7). -/
theorem claimCheck_claimed {e : Entry} {b : Slot} (a : Slot) (hc : d.points[pointOf e.record].claim = some b) :
    d.claimCheck a e =
      if supersedeOf e.record = true then
        ((d.setPoint (pointOf e.record) { d.points[pointOf e.record] with claim := none }).answer b .cxsuper 0).effect
          a e
      else d.answer a .busy 0 := by
  rw [Device.claimCheck, hc, Device.cancelClaim, hc]
  rfl

end Sys2Proof.Machine
end

section
/-! The takings of the output kinds: SET and CLEAR (O19), the timed kinds (O20), SUPERSEDE (O21) and a CLOSED gate
(O22). -/

namespace Sys2Proof.Machine

/-! ## The intake of a granted record -/

section

variable {d : Device} {k : ActionKind} {r : RingId} {head : RawRecord} {rest : List RawRecord} {a : Slot}

/-- A granted record without a trigger runs the action stage in its intake (R31, R38). -/
theorem intakeOutput_granted (hg : d.Grants k r head) (htrig : trigOf head = false) :
    Device.intakeOutput k r a head (d.takeHead r a head rest) =
      ((d.takeHead r a head rest).addDeadline a head).actionStage a := by
  unfold Device.intakeOutput
  rw [if_pos hg.1, takeHead_zoneRefusal, hg.2]
  simp only [htrig, Bool.false_eq_true, if_false]

/-- The entry being taken, with its deadline given. -/
theorem takeHead_addDeadline_slot :
    ((d.takeHead r a head rest).addDeadline a head).slots[a] = some (d.entryOf r head .intake) := by
  rw [Device.addDeadline_slots, takeHead_slot]

/-- A record that passes the fault check and the gate check comes to the claim check. -/
theorem taken_claimCheck (hk : actionKindOf head = some k) (hp : d.PassesChecks k head) :
    ((d.takeHead r a head rest).addDeadline a head).actionStage a =
      ((d.takeHead r a head rest).addDeadline a head).claimCheck a (d.entryOf r head .intake) := by
  refine actionStage_claimCheck _ takeHead_addDeadline_slot hk ?_ ?_
  · rw [Device.addDeadline_points]
    exact hp.1
  · rw [Device.addDeadline_points, addDeadline_gateOpen]
    exact hp.2

/-- The effect made in the taking event leaves no trace of the deadline (R4). -/
theorem effect_addDeadline (hk : actionKindOf head = some k) (ho : isOutputKind k = true) :
    ((d.takeHead r a head rest).addDeadline a head).effect a (d.entryOf r head .intake) =
      (d.takeHead r a head rest).effect a (d.entryOf r head .intake) := by
  rw [← effect_withdraw _ takeHead_addDeadline_slot hk ho, withdraw_addDeadline,
    effect_withdraw _ (takeHead_slot d r a head rest) hk ho]

/-- A record that reaches its effect has it in its taking event (R4, R38). -/
theorem intakeOutput_effect (hk : actionKindOf head = some k) (ho : isOutputKind k = true)
    (h : d.ReachesEffect k r head) :
    Device.intakeOutput k r a head (d.takeHead r a head rest) =
      (d.takeHead r a head rest).effect a (d.entryOf r head .intake) := by
  obtain ⟨hg, htrig, hp, hc⟩ := h
  rw [intakeOutput_granted hg htrig, taken_claimCheck hk hp, claimCheck_unclaimed, effect_addDeadline hk ho]
  rw [Device.addDeadline_points]
  exact hc

end

/-- A taking of a record that reaches its effect is that effect, closed. -/
theorem closes_effect {s : State} {k : ActionKind} {r : RingId} {head : RawRecord} {rest : List RawRecord} {a : Slot}
    {x : Device} (ht : s.dev.TakesAction k r head rest a) (ho : isOutputKind k = true)
    (h : s.dev.ReachesEffect k r head)
    (hx : (s.dev.takeHead r a head rest).kindEffect k a (s.dev.entryOf r head .intake) = x) :
    Closes (actionCommand r (some k)) s x := by
  refine closes_output ht ho ?_
  rw [intakeOutput_effect ht.2.2 ho h, effect_of_kind _ ht.2.2, hx]

/-! ## SUPERSEDE -/

/-- A taking with SUPERSEDE that meets a claim ends it CXSUPER and has its own effect (R7, R8). -/
theorem closes_supersede {s : State} {k : ActionKind} {r : RingId} {head : RawRecord} {rest : List RawRecord}
    {a b : Slot} (ht : s.dev.TakesAction k r head rest a) (ho : isOutputKind k = true) (hg : s.dev.Grants k r head)
    (htrig : trigOf head = false) (hp : s.dev.PassesChecks k head)
    (hc : s.dev.points[pointOf head].claim = some b) (hs : supersedeOf head = true) :
    Closes (actionCommand r (some k)) s
      ((((s.dev.takeHead r a head rest).setPoint (pointOf head)
        { s.dev.points[pointOf head] with claim := none }).answer b .cxsuper 0).effect a
          (s.dev.entryOf r head .intake)) := by
  refine closes_output ht ho ?_
  have hk : actionKindOf (s.dev.entryOf r head .intake).record = some k := ht.2.2
  rw [intakeOutput_granted hg htrig, taken_claimCheck ht.2.2 hp, claimCheck_claimed (b := b),
    if_pos (show supersedeOf (s.dev.entryOf r head .intake).record = true from hs)]
  · generalize hx : ((s.dev.takeHead r a head rest).addDeadline a head).setPoint _ _ = x
    generalize hy : (s.dev.takeHead r a head rest).setPoint _ _ = y
    have hxa : x.slots[a] = some (s.dev.entryOf r head .intake) := by
      rw [← hx, Device.setPoint_slots, takeHead_addDeadline_slot]
    have hya : y.slots[a] = some (s.dev.entryOf r head .intake) := by
      rw [← hy, Device.setPoint_slots, takeHead_slot]
    have same : x.withdraw a = y.withdraw a := by
      rw [← hx, ← hy, Device.addDeadline_points]
      exact congrArg (Device.setPoint · (pointOf head) { s.dev.points[pointOf head] with claim := none })
        (withdraw_addDeadline (s.dev.takeHead r a head rest) a head)
    by_cases hba : b = a
    · subst hba
      rw [← answer_withdraw x hxa, ← answer_withdraw y hya, same]
    · have keep (z : Device) : (z.answer b .cxsuper 0).slots[a] = z.slots[a] := answer_slot_ne z (Ne.symm hba) _ _
      rw [← effect_withdraw _ ((keep x).trans hxa) hk ho, ← effect_withdraw _ ((keep y).trans hya) hk ho,
        withdraw_answer, withdraw_answer, same]
  · rw [Device.addDeadline_points]
    exact hc

end Sys2Proof.Machine
end

section
/-! Durations, the order of times and the Timing List (R25, R27, R64, R67), and the statements on the output kinds
(O19 to O22). -/

namespace Sys2Proof.Machine

/-! ## Durations -/

/-- A unit code names its ticks, and a 16-bit count of them fits a device time (R25, R27). -/
theorem ticks_of_unit {code : Byte} {i u : Nat} (hu : [10, 100, 1000, 10000][i]? = some u) (hc : code.toNat = i)
    (n : BitVec 16) : (BitVec.ofNat 32 (n.toNat * unitTicks code)).toNat = n.toNat * u := by
  have unit : unitTicks code = u ∧ u ≤ 10000 := by
    unfold unitTicks
    rw [hc]
    match i with
    | 0 | 1 | 2 | 3 => simp at hu; subst hu; simp
    | i + 4 => simp at hu
  rw [unit.1, BitVec.toNat_ofNat]
  refine Nat.mod_eq_of_lt ?_
  calc n.toNat * u ≤ 65535 * 10000 := Nat.mul_le_mul (by omega) unit.2
    _ < 2 ^ 32 := by decide

/-! ## The order of times -/

theorem timeBefore_iff (x y : Time) : timeBefore x y = true ↔ (x - y).toInt < 0 := by
  rw [timeBefore, BitVec.msb_eq_toInt, decide_eq_true_iff]

theorem timeReached_iff (x y : Time) : timeReached x y = true ↔ 0 ≤ (x - y).toInt := by
  rw [timeReached, Bool.not_eq_true', ← Bool.not_eq_true, timeBefore_iff, not_lt]

/-- Within half the range from a start, the order of times is the order of the distances from it (R64). -/
theorem timeBefore_iff_distance {x y start : Time} (hx : (x - start).toNat < 2 ^ 31)
    (hy : (y - start).toNat < 2 ^ 31) : timeBefore x y = true ↔ (x - start).toNat < (y - start).toNat := by
  rw [timeBefore, ← sub_sub_sub_cancel_right x y start, BitVec.msb_eq_decide, decide_eq_true_iff, BitVec.toNat_sub]
  omega

/-! ## Insertion into the Timing List -/

/-- An insertion goes behind every entry up to the first that is due after it (R67). -/
theorem insertTimer_split (t : TimerEntry) (l : List TimerEntry) :
    ∃ front back : List TimerEntry, l = front ++ back ∧ insertTimer t l = front ++ t :: back ∧
      (∀ x ∈ front, timeBefore t.due x.due = false) ∧ ∀ x ∈ back.head?, timeBefore t.due x.due = true := by
  induction l with
  | nil => exact ⟨[], [], rfl, rfl, by simp, by simp⟩
  | cons y ys ih =>
    by_cases hy : timeBefore t.due y.due = true
    · exact ⟨[], y :: ys, rfl, by simp [insertTimer, hy], by simp, by simpa using hy⟩
    · obtain ⟨front, back, hl, hi, hf, hb⟩ := ih
      refine ⟨y :: front, back, by simp [hl], by simp [insertTimer, hy, hi], fun x hx => ?_, hb⟩
      obtain rfl | hx := List.mem_cons.mp hx
      · simpa using hy
      · exact hf x hx

theorem mem_insertTimer {t x : TimerEntry} {l : List TimerEntry} : x ∈ insertTimer t l ↔ x = t ∨ x ∈ l := by
  obtain ⟨front, back, hl, hi, -, -⟩ := insertTimer_split t l
  rw [hi, hl]
  simp only [List.mem_append, List.mem_cons]
  tauto

/-- An insertion keeps a list in order of due time while the times lie within half the range (R67). -/
theorem insertTimer_sorted {t : TimerEntry} {l : List TimerEntry} {start : Time}
    (hr : ∀ x ∈ t :: l, (x.due - start).toNat < 2 ^ 31)
    (hs : l.Pairwise (fun x y => timeBefore y.due x.due = false)) :
    (insertTimer t l).Pairwise (fun x y => timeBefore y.due x.due = false) := by
  induction l with
  | nil => simp [insertTimer]
  | cons y ys ih =>
    obtain ⟨hy, hys⟩ := List.pairwise_cons.mp hs
    have htail : ∀ x ∈ t :: ys, (x.due - start).toNat < 2 ^ 31 := fun x hx => hr x (by
      obtain rfl | hx := List.mem_cons.mp hx
      · simp
      · simp [hx])
    have dt := hr t (by simp)
    have dy := hr y (by simp)
    unfold insertTimer
    split
    next hb =>
      refine List.pairwise_cons.mpr ⟨fun z hz => ?_, hs⟩
      have dz := hr z (by simp [List.mem_cons.mp hz])
      rw [timeBefore_iff_distance dt dy] at hb
      refine Bool.eq_false_iff.mpr fun hzt => ?_
      rw [timeBefore_iff_distance dz dt] at hzt
      obtain rfl | hz := List.mem_cons.mp hz
      · omega
      · have hzy := hy z hz
        rw [← Bool.not_eq_true, timeBefore_iff_distance dz dy] at hzy
        omega
    next hb =>
      refine List.pairwise_cons.mpr ⟨fun z hz => ?_, ih htail hys⟩
      obtain rfl | hz := mem_insertTimer.mp hz
      · simpa using hb
      · exact hy z hz

/-! ## Levels -/

theorem setPoint_self (d : Device) (p : PointId) : d.setPoint p d.points[p] = d := by
  simp [Device.setPoint]

/-- Driving a point sets its level and keeps its claim, and a level that is there is left as it is (R3, R9). -/
theorem driveLevel_point (d : Device) (p : PointId) (l : Bool) :
    (d.driveLevel p l).points[p].level = l ∧ (d.driveLevel p l).points[p].claim = d.points[p].claim ∧
      (d.points[p].level = l → d.driveLevel p l = d) := by
  obtain ⟨-, -, -, -, hlevel, hclaim, -⟩ := Point.drive_config d.points[p] d.now l
  refine ⟨by simpa [Device.driveLevel] using hlevel, by simpa [Device.driveLevel] using hclaim, fun h => ?_⟩
  rw [Device.driveLevel, Point.drive, if_pos h, setPoint_self]

/-! ## The statements -/

/-- With the bus ready, the close of an event changes the completion writes and the read in flight, the last grant and
the count of messages alone. -/
theorem closedFrom_of_busReady (before d : Device) (hb : d.busReady = true) :
    ∃ messages, before.closedFrom d =
      { d with
        c0 := { d.c0 with inflight := d.nextWrite .c0 }
        c1 := { d.c1 with inflight := d.nextWrite .c1 }
        channel := d.nextRead
        lastGrant := d.nextGrant
        link := { d.link with messages := messages } } := by
  unfold Device.closedFrom Device.served
  rw [if_pos hb]
  exact ⟨_, rfl⟩

/-- Settles O19: SET and CLEAR by their effect, a CLEAR that superseded a claim through the drive of the freed point. -/
theorem setAndClear : Obligations.SetAndClear := by
  refine ⟨fun s r head rest a ht h => closes_effect ht rfl h rfl, fun s r head rest a ht h => closes_effect ht rfl h rfl,
    driveLevel_point, fun s r head rest a ht hg htrig hp hc hs hb => ?_⟩
  obtain ⟨b, hclaim⟩ := Option.ne_none_iff_exists'.mp hc
  have hcloses := closes_supersede ht rfl hg htrig ⟨hp, fun h => absurd h (by decide)⟩ hclaim hs
  rw [effect_of_kind _ (k := .clear) ht.2.2, Device.kindEffect] at hcloses
  refine ⟨_, hcloses, ?_⟩
  generalize hz : ((s.dev.takeHead r a head rest).setPoint _ _).answer b _ _ = z
  have hready : z.busReady = true := by rw [← hz, answer_busReady]; exact hb
  have hunclaimed : z.points[pointOf head].claim = none := by rw [← hz, Device.answer_points]; simp
  obtain ⟨hlevel, hkept, -⟩ := driveLevel_point z (pointOf head) false
  obtain ⟨messages, hclose⟩ := closedFrom_of_busReady s.dev
    ((z.driveLevel (pointOf head) false).answer a .done 0) (by rw [answer_busReady]; exact hready)
  have hpoints : (s.dev.closedFrom ((z.driveLevel (pointOf head) false).answer a .done 0)).points =
      (z.driveLevel (pointOf head) false).points := by rw [hclose]; exact Device.answer_points _ _ _ _
  dsimp only [Device.entryOf]
  rw [hpoints]
  exact ⟨hlevel, hkept.trans hunclaimed⟩

/-- Settles O20: the order of times and of the list, then each timed kind by its effect. -/
theorem timedKindsClaimPoint : Obligations.TimedKindsClaimPoint := by
  refine ⟨fun r i u hu => ⟨fun h => ticks_of_unit hu h _, fun h => ticks_of_unit hu h _⟩,
    fun x y => ⟨timeBefore_iff x y, timeReached_iff x y⟩, insertTimer_split, fun t l start => insertTimer_sorted, ?_⟩
  intro s k r head rest a blink x ht h hkind
  have begun (y : Device) (hy : y.slots[a] = some (s.dev.entryOf r head .intake)) :=
    beginTimed_eq y hy (s.dev.entryOf r head .intake) blink
  have hslot := takeHead_slot s.dev r a head rest
  obtain ⟨rfl, rfl, rfl⟩ | ⟨rfl | rfl, rfl, rfl⟩ | ⟨rfl, rfl, rfl⟩ := hkind
  · exact closes_effect ht rfl h (begun _ hslot)
  · exact closes_effect ht rfl h (begun _ hslot)
  · exact closes_effect ht rfl h (begun _ hslot)
  · exact closes_effect ht rfl h (begun _ hslot)

/-- Settles O21: the claim check at a claimed point, and the effect of each kind. -/
theorem supersedeCancelsClaim : Obligations.SupersedeCancelsClaim := by
  refine ⟨fun s k r head rest a b ht ho hg htrig hp hc hs => closes_supersede ht ho hg htrig hp hc hs, ?_⟩
  intro d x a e entry k p blink hk hp he hx hblink
  subst hp hx hblink
  rw [effect_of_kind d hk]
  refine ⟨fun h => h ▸ rfl, fun h => h ▸ rfl, fun h => ?_⟩
  obtain rfl | rfl | rfl | rfl := h
  · exact beginTimed_eq (d.driveLevel (pointOf e.record) true) he e none
  · exact beginTimed_eq d he e none
  · exact beginTimed_eq d he e none
  · exact beginTimed_eq (d.driveLevel (pointOf e.record) true) he e _

theorem isOutputKind_of_isOnEffect {k : ActionKind} (h : isOnEffect k = true) : isOutputKind k = true := by
  revert h
  cases k <;> decide

/-- A deadline given to a slot, as the Timing List it leaves (R33). -/
theorem addDeadline_timing (d : Device) (a : Slot) (record : RawRecord) :
    (d.addDeadline a record).timing =
      if halfAt record 12 = 0 then d.timing else insertTimer ⟨a, .deadline, d.now + limitOf record⟩ d.timing := by
  unfold Device.addDeadline
  split <;> rfl

/-- A deadline changes the Timing List alone. -/
theorem addDeadline_eq (d : Device) (a : Slot) (record : RawRecord) :
    d.addDeadline a record = { d with timing := (d.addDeadline a record).timing } := by
  unfold Device.addDeadline
  split <;> rfl

/-- Settles O22. -/
theorem closedGateWaits : Obligations.ClosedGateWaits := by
  intro s k r head rest a g ht hg htrig hon hp hgroup hgate hw
  refine closes_output ht (isOutputKind_of_isOnEffect hon) ?_
  have hpoints : ((s.dev.takeHead r a head rest).addDeadline a head).points = s.dev.points :=
    Device.addDeadline_points _ _ _
  rw [intakeOutput_granted hg htrig,
    actionStage_gateWait _ takeHead_addDeadline_slot (k := k) (g := g) ht.2.2 (by rw [hpoints]; exact hp) hon
      (by rw [hpoints, addDeadline_gateOpen, takeHead_gateOpen]
          exact (congrArg s.dev.gateOpen hgroup).trans ((gateOpen_succ _ g).trans hgate))
      hw (by rw [hpoints]; exact hgroup), addDeadline_eq, addDeadline_timing]
  simp [Device.entryOf]

end Sys2Proof.Machine
end

section
/-! Many answers in one event (R51, R158), and the end of claims on many points (R8). -/

namespace Sys2Proof.Machine

variable (d : Device)

/-! ## Answers of a list of slots -/

/-- The slots of a list answered in its order, each with a status and DETAIL 0 (R8, R147, R181). -/
def Device.answerAll (l : List Slot) (st : Status) : Device := l.foldl (fun d a => d.answer a st 0) d

@[simp] theorem answerAll_nil (st : Status) : d.answerAll [] st = d := rfl

@[simp] theorem answerAll_cons (a : Slot) (l : List Slot) (st : Status) :
    d.answerAll (a :: l) st = (d.answer a st 0).answerAll l st := rfl

/-- A field that every step of a fold keeps is kept by the fold. -/
theorem foldl_field {α β : Type} {f : Device → α → Device} {g : Device → β} (hg : ∀ d x, g (f d x) = g d) (l : List α) :
    g (l.foldl f d) = g d := by
  induction l generalizing d with
  | nil => rfl
  | cons x l ih => exact (ih _).trans (hg d x)

/-- A field that every answer keeps is kept by all of them. -/
theorem answerAll_field {α : Type} {f : Device → α} (hf : ∀ (d : Device) a st x, f (d.answer a st x) = f d)
    (l : List Slot) (st : Status) : f (d.answerAll l st) = f d :=
  foldl_field d (fun d a => hf d a st 0) l

/-- Answers neither read nor change a point. -/
theorem answerAll_withPoints (l : List Slot) (st : Status) (ps : Vector Point 64) :
    ({ d with points := ps } : Device).answerAll l st = { d.answerAll l st with points := ps } := by
  induction l generalizing d with
  | nil => rfl
  | cons a l ih => rw [answerAll_cons, answer_withPoints, ih, answerAll_cons]

/-- What an answer of `e` leaves is the same after an answer of another entry. -/
theorem answer_answered (a : Slot) (st st' : Status) (x x' : Word) (e : Entry) :
    (d.answer a st' x').answered e st x = d.answered e st x := by
  simp [Device.answered]

/-- A slot outside the list is left. -/
theorem answerAll_slot_notMem {l : List Slot} (st : Status) {a : Slot} (ha : a ∉ l) :
    (d.answerAll l st).slots[a] = d.slots[a] := by
  induction l generalizing d with
  | nil => rfl
  | cons b l ih =>
    obtain ⟨hab, hal⟩ := not_or.mp (List.mem_cons.not.mp ha)
    rw [answerAll_cons, ih _ hal, answer_slot_ne d hab]

/-- An answer leaves every slot of a list that does not name its own. -/
theorem answer_slot_of_mem {a b : Slot} {l : List Slot} (hb : b ∉ l) (ha : a ∈ l) (st : Status) (x : Word) :
    (d.answer b st x).slots[a] = d.slots[a] :=
  answer_slot_ne d (fun h : a = b => hb (h ▸ ha)) st x

section

variable {l : List Slot} (hl : l.Nodup) (hs : ∀ a ∈ l, d.slots[a] ≠ none)

include hl hs

/-- A slot of the list holds its answered entry, or is freed. -/
theorem answerAll_slot_mem (st : Status) {a : Slot} (ha : a ∈ l) {e : Entry} (he : d.slots[a] = some e) :
    (d.answerAll l st).slots[a] = d.answered e st 0 := by
  induction l generalizing d with
  | nil => cases ha
  | cons b l ih =>
    obtain ⟨hb, hl⟩ := List.nodup_cons.mp hl
    rw [answerAll_cons]
    obtain rfl | hal := List.mem_cons.mp ha
    · rw [answerAll_slot_notMem _ st hb, answer_slot_same d he]
    · rw [ih _ hl (fun c hc => by rw [answer_slot_of_mem d hb hc]; exact hs c (List.mem_cons_of_mem _ hc)) hal
        ((answer_slot_of_mem d hb hal _ _).trans he), answer_answered]

/-- The timers of the list's slots are withdrawn, the others keep their order. -/
theorem answerAll_timing (st : Status) :
    (d.answerAll l st).timing = d.timing.filter (fun t => !l.contains t.owner) := by
  induction l generalizing d with
  | nil => simp
  | cons b l ih =>
    obtain ⟨hb, hl⟩ := List.nodup_cons.mp hl
    obtain ⟨e, he⟩ := Option.ne_none_iff_exists'.mp (hs b List.mem_cons_self)
    rw [answerAll_cons, ih _ hl
      (fun c hc => by rw [answer_slot_of_mem d hb hc]; exact hs c (List.mem_cons_of_mem _ hc)),
      answer_timing d he, List.filter_filter]
    refine List.filter_congr fun t _ => ?_
    rw [List.contains_cons, Bool.not_or, Bool.and_comm]
    rfl

/-- Each slot of the list joins the queue of its entry's completion ring, in the order of the list. -/
theorem answerAll_cring (st : Status) (n : CRingId) :
    (d.answerAll l st).cring n =
      { d.cring n with
        queue := (d.cring n).queue ++
          (if (d.cring n).state = .faulted then []
           else l.filter (fun a => d.slots[a].any (fun e => decide (d.binding e.ring = n)))) } := by
  induction l generalizing d with
  | nil => simp
  | cons b l ih =>
    obtain ⟨hb, hl⟩ := List.nodup_cons.mp hl
    obtain ⟨e, he⟩ := Option.ne_none_iff_exists'.mp (hs b List.mem_cons_self)
    have later : l.filter (fun a => (d.answer b st 0).slots[a].any
          (fun e => decide ((d.answer b st 0).binding e.ring = n))) =
        l.filter (fun a => d.slots[a].any (fun e => decide (d.binding e.ring = n))) :=
      List.filter_congr fun a ha => by simp only [answer_slot_of_mem d hb ha, answer_binding]
    rw [answerAll_cons, ih _ hl
      (fun c hc => by rw [answer_slot_of_mem d hb hc]; exact hs c (List.mem_cons_of_mem _ hc)),
      later, answer_cring d he, List.filter_cons, he]
    by_cases hf : (d.cring n).state = .faulted
    · simp [Device.joined, hf]
    · by_cases hn : d.binding e.ring = n <;> simp [Device.joined, hf, hn]

end

/-! ## The end of claims on a list of points -/

/-- A fold of an operation that changes its own point alone changes each point of the list once. -/
theorem foldl_points {f : Device → PointId → Device} {g : Time → Point → Point}
    (hf : ∀ d p, (f d p).points = d.points.set p (g d.now d.points[p])) (hn : ∀ d p, (f d p).now = d.now)
    {l : List PointId} (hl : l.Nodup) (q : PointId) :
    (l.foldl f d).points[q] = if q ∈ l then g d.now d.points[q] else d.points[q] := by
  induction l generalizing d with
  | nil => simp
  | cons p l ih =>
    obtain ⟨hp, hl⟩ := List.nodup_cons.mp hl
    rw [List.foldl_cons, ih _ hl, hn, hf]
    by_cases hq : q = p
    · subst hq
      simp [hp]
    · have hne : p.val ≠ q.val := fun h => hq (Fin.ext h.symm)
      simp [hq, hne]

/-- A cancelled point is unclaimed (R8). -/
theorem cancelClaim_points (p : PointId) (st : Status) :
    (d.cancelClaim p st).points = d.points.set p { d.points[p] with claim := none } := by
  unfold Device.cancelClaim
  split
  next h =>
    rw [show ({ d.points[p] with claim := none } : Point) = d.points[p] from by rw [← h]]
    simp
  · simp [Device.setClaim]

/-- The cancellation of the claims on a list of points answers the claiming entries in its order (R8, R86). -/
theorem foldl_cancelClaim (st : Status) {l : List PointId} (hl : l.Nodup) :
    l.foldl (fun d p => d.cancelClaim p st) d =
      { d.answerAll (l.filterMap (fun p => d.points[p].claim)) st with
        points := (l.foldl (fun d p => d.cancelClaim p st) d).points } := by
  induction l generalizing d with
  | nil => rfl
  | cons p l ih =>
    obtain ⟨hp, hl⟩ := List.nodup_cons.mp hl
    have later : l.filterMap (fun q => (d.cancelClaim p st).points[q].claim) =
        l.filterMap (fun q => d.points[q].claim) := List.filterMap_congr fun q hq => by
      have hne : p.val ≠ q.val := fun h => hp (Fin.ext h ▸ hq)
      simp [cancelClaim_points, hne]
    rw [List.foldl_cons, ih (d.cancelClaim p st) hl, later, List.filterMap_cons]
    generalize Device.points (l.foldl _ _) = ps
    unfold Device.cancelClaim
    cases hc : d.points[p].claim with
    | none => rfl
    | some a =>
      have clear : d.setClaim p none =
          { d with points := d.points.set p { d.points[p] with claim := none } } := rfl
      dsimp only
      rw [← answerAll_cons, clear, answerAll_withPoints]

end Sys2Proof.Machine
end

section
/-! The closure and the opening of a group, the action stage, and a fault beside a closure (O51). -/

namespace Sys2Proof.Machine

variable (d : Device)

/-! ## The closure -/

/-- A point that a closure drives: a PLAIN one goes OFF (R87). -/
def closedPoint (now : Time) (p : Point) : Point := if p.mode = .plain then p.drive now false else p

theorem closePoint_points (p : PointId) :
    (d.closePoint p).points = d.points.set p (closedPoint d.now d.points[p]) := by
  unfold Device.closePoint closedPoint
  by_cases h : d.points[p].mode = .plain
  · rw [if_pos (by rw [h]; rfl), if_pos h]
    rfl
  · rw [if_neg (by simpa using h), if_neg h]
    simp

/-- A closure's drives change points alone. -/
theorem foldl_closePoint (l : List PointId) :
    l.foldl Device.closePoint d = { d with points := (l.foldl Device.closePoint d).points } := by
  have one (x : Device) (p : PointId) : x.closePoint p = { x with points := (x.closePoint p).points } := by
    unfold Device.closePoint
    split <;> rfl
  induction l generalizing d with
  | nil => rfl
  | cons p l ih =>
    rw [List.foldl_cons, ih (d.closePoint p)]
    generalize Device.points (l.foldl _ _) = ps
    rw [one d p]

theorem mem_groupPoints {k : Fin 7} {p : PointId} : p ∈ d.groupPoints k ↔ d.points[p].group = k.succ := by
  simp [Device.groupPoints, allPoints]

theorem groupPoints_nodup (k : Fin 7) : (d.groupPoints k).Nodup :=
  (List.nodup_finRange 64).filter _

/-- The slots that claim points of the group at place `k`, in ascending point order (R86). -/
def Device.claimants (k : Fin 7) : List Slot := (d.groupPoints k).filterMap (fun p => d.points[p].claim)

theorem claimants_eq (k : Fin 7) :
    d.claimants k =
      (List.finRange 64).filterMap (fun p => if d.points[p].group = k.succ then d.points[p].claim else none) := by
  simp only [Device.claimants, Device.groupPoints, allPoints, List.filterMap_filter, beq_iff_eq]

/-- A closure answers the claimants CXLOCK, closes the gate and changes points (R86, R87). -/
theorem closeGroup_eq (k : Fin 7) :
    d.closeGroup k =
      { (d.setGroup k { d.groups[k] with gate := false }).answerAll (d.claimants k) .cxlock with
        points := (d.closeGroup k).points } := by
  unfold Device.closeGroup
  generalize hx : d.setGroup k _ = x
  have hclaims : d.claimants k = (d.groupPoints k).filterMap (fun p => x.points[p].claim) := by rw [← hx]; rfl
  have answered := foldl_cancelClaim x .cxlock (groupPoints_nodup d k)
  rw [foldl_closePoint, hclaims]
  generalize Device.points (List.foldl Device.closePoint _ _) = ps
  exact congrArg (fun y : Device => { y with points := ps }) answered

/-- Each point of the group is unclaimed and, when PLAIN, OFF; every other point is left (R86, R87). -/
theorem closeGroup_point (k : Fin 7) (p : PointId) :
    (d.closeGroup k).points[p] =
      if d.points[p].group = k.succ then closedPoint d.now { d.points[p] with claim := none } else d.points[p] := by
  unfold Device.closeGroup
  rw [foldl_points _ closePoint_points Device.closePoint_now (groupPoints_nodup d k),
    foldl_field (g := Device.now) _ (fun d p => Device.cancelClaim_now d p .cxlock),
    foldl_points (g := fun _ v => { v with claim := none }) _ (fun d p => cancelClaim_points d p .cxlock)
      (fun d p => Device.cancelClaim_now d p .cxlock) (groupPoints_nodup d k)]
  by_cases h : d.points[p].group = k.succ
  · have hp := (mem_groupPoints d).mpr h
    rw [if_pos hp, if_pos hp, if_pos h]
    rfl
  · have hp : p ∉ d.groupPoints k := fun hp => h ((mem_groupPoints d).mp hp)
    rw [if_neg hp, if_neg hp, if_neg h]
    rfl

/-- A closed point, field by field (R15, R87). -/
theorem closedPoint_eq (now : Time) (p : Point) :
    closedPoint now p =
      { p with
        level := if p.mode = .plain then false else p.level
        window :=
          if p.mode = .plain ∧ p.level = true ∧ p.readback = true ∧ p.pstate = .normal then some (now + 200)
          else p.window } := by
  obtain ⟨group, mode, readback, level, pstate, claim, window, sense⟩ := p
  cases mode <;> cases level <;> simp [closedPoint, Point.drive, settleTicks]

/-! ## The statements of O51 -/

/-- What a closure does to everything but the order of its answers (R86, R87). -/
theorem closeGroup_fields (k : Fin 7) :
    (∀ j : Fin 7, (d.closeGroup k).groups[j] = if j = k then { d.groups[j] with gate := false } else d.groups[j]) ∧
      (d.closeGroup k).inputs = d.inputs ∧ (d.closeGroup k).rings = d.rings ∧ (d.closeGroup k).sup = d.sup ∧
      (d.closeGroup k).alert = d.alert ∧ (d.closeGroup k).dstate = d.dstate := by
  rw [closeGroup_eq]
  refine ⟨fun j => ?_, answerAll_field _ Device.answer_inputs _ _, answerAll_field _ Device.answer_rings _ _,
    answerAll_field _ Device.answer_sup _ _, answerAll_field _ Device.answer_alert _ _,
    answerAll_field _ Device.answer_dstate _ _⟩
  dsimp only
  rw [answerAll_field _ Device.answer_groups]
  by_cases hj : j = k
  · subst hj
    simp
  · simp [hj, Fin.val_inj, Ne.symm hj]

/-- A fault leaves its point FAULTED, OFF, unclaimed and without a window (R17). -/
theorem pointFault_point (p : PointId) :
    (d.pointFault p).points[p] =
      { d.points[p] with pstate := .faulted, window := none, level := false, claim := none } := by
  simp [Device.pointFault, Device.raiseAlert, cancelClaim_points]

theorem pointFault_group {p q : PointId} : (d.pointFault p).points[q].group = d.points[q].group := by
  by_cases h : p = q
  · subst h
    rw [pointFault_point]
  · simp [Device.pointFault, Device.raiseAlert, cancelClaim_points, Fin.val_inj, h]

/-- A fault of an unclaimed point cancels nothing. -/
theorem pointFault_unclaimed {p : PointId} (h : d.points[p].claim = none) :
    (d.pointFault p).slots = d.slots ∧ (d.pointFault p).c0 = d.c0 ∧ (d.pointFault p).c1 = d.c1 := by
  rw [pointFault_eq, h]
  exact ⟨rfl, rfl, rfl⟩

theorem closedPoint_off {now : Time} {p : Point} (h : p.level = false) : closedPoint now p = p := by
  unfold closedPoint
  split
  · rw [Point.drive, if_pos h]
  · rfl

/-- Settles O51: the closure field by field, the action stage by its branches, and a fault and a closure in either
order, by the point they leave (R96). -/
theorem closureAndOpening : Obligations.ClosureAndOpening := by
  refine ⟨fun d t k ended ht hended => ?_, fun _ _ => rfl, fun d a e p he hp => ?_,
    fun d first second k p hgroup hfirst hsecond => ?_⟩
  · subst ht
    obtain ⟨hgroups, hinputs, hrings, hsup, halert, hdstate⟩ := closeGroup_fields d k
    rw [← claimants_eq] at hended
    subst hended
    have hslots : (d.closeGroup k).slots =
        ((d.setGroup k { d.groups[k] with gate := false }).answerAll (d.claimants k) .cxlock).slots := by
      rw [closeGroup_eq]
    refine ⟨hgroups, fun p => ?_, fun a ha => ?_, fun hnodup hlive => ⟨fun a e ha he => ?_, ?_, fun n => ?_⟩,
      hinputs, hrings, hsup, halert, hdstate⟩
    · rw [closeGroup_point, closedPoint_eq]
    · rw [hslots, answerAll_slot_notMem _ _ ha]
      rfl
    · rw [hslots, answerAll_slot_mem (d.setGroup k _) hnodup hlive _ ha he]
      rfl
    · rw [closeGroup_eq]
      exact answerAll_timing (d.setGroup k _) hnodup hlive _
    · have hcring : (d.closeGroup k).cring n =
          ((d.setGroup k { d.groups[k] with gate := false }).answerAll (d.claimants k) .cxlock).cring n := by
        rw [closeGroup_eq]
        cases n <;> rfl
      rw [hcring, answerAll_cring (d.setGroup k _) hnodup hlive]
      rfl
  · subst hp
    refine ⟨actionStage_faulted d he, fun k hk hp => ⟨fun hon hg => ⟨fun hw => ?_, fun g hw hgroup => ?_⟩,
      fun hg => ⟨fun hc => ?_, fun b hc => ?_⟩⟩⟩
    · exact actionStage_gated d he hk hp hon hg hw
    · exact actionStage_gateWait d he hk hp hon hg hw hgroup
    · rw [actionStage_claimCheck d he hk hp hg, claimCheck_unclaimed d a hc]
    · rw [actionStage_claimCheck d he hk hp hg, claimCheck_claimed d a hc]
  · subst hfirst hsecond
    have hfault := pointFault_point d p
    have hclosed : ((d.pointFault p).closeGroup k).points[p] = (d.pointFault p).points[p] := by
      rw [closeGroup_point, pointFault_group, if_pos hgroup, hfault]
      exact closedPoint_off rfl
    have hunclaimed : (d.closeGroup k).points[p].claim = none := by
      rw [closeGroup_point, if_pos hgroup, closedPoint_eq]
    have hafter := pointFault_point (d.closeGroup k) p
    refine ⟨⟨?_, ?_, ?_, hclosed⟩, ?_, ?_, ?_, pointFault_unclaimed _ hunclaimed⟩
    · rw [hclosed, hfault]
    · rw [hclosed, hfault]
    · rw [hclosed, hfault]
    · rw [hafter]
    · rw [hafter]
    · rw [hafter]

end Sys2Proof.Machine
end

section
/-! The cancellation of many entries in one event (R8, R40, R147, R181): each gives up its claim and its waits, and then
all are answered. -/

namespace Sys2Proof.Machine

variable (d : Device)

/-! ## One entry gives up what it holds -/

/-- The entry of a slot gives up the claim on its point and leaves every wait (R8, R40). -/
def Device.detach (a : Slot) : Device :=
  match d.slots[a] with
  | none => d
  | some e => (if d.points[pointOf e.record].claim = some a then d.setClaim (pointOf e.record) none else d).unwait a

/-- The claim on point `p` belongs to a slot of the list whose entry names the point. -/
def Device.heldBy (l : List Slot) (p : PointId) : Bool :=
  d.points[p].claim.any (fun a => l.contains a && d.slots[a].any (fun e => pointOf e.record == p))

theorem cancelEntry_live {a : Slot} {e : Entry} (he : d.slots[a] = some e) (hl : e.isLive = true) (st : Status) :
    d.cancelEntry a st = (d.detach a).answer a st 0 := by
  unfold Device.cancelEntry Device.detach
  rw [he]
  exact if_pos hl

/-- The points after an entry gave up its claim. -/
def Device.detachedPoints (a : Slot) (e : Entry) : Vector Point 64 :=
  if d.points[pointOf e.record].claim = some a then
    d.points.set (pointOf e.record) { d.points[pointOf e.record] with claim := none }
  else d.points

theorem detach_some {a : Slot} {e : Entry} (he : d.slots[a] = some e) :
    d.detach a =
      { d with
        points := d.detachedPoints a e
        groups := d.groups.map (fun g => { g with waits := g.waits.filter (· != a) })
        inputs := d.inputs.map (fun i => { i with waits := i.waits.filter (· != a) }) } := by
  unfold Device.detach Device.detachedPoints
  rw [he]
  dsimp only
  split <;> rfl

theorem detach_none {a : Slot} (he : d.slots[a] = none) : d.detach a = d := by
  unfold Device.detach
  rw [he]

@[simp] theorem detach_slots (a : Slot) : (d.detach a).slots = d.slots := by
  cases he : d.slots[a] with
  | none => rw [detach_none d he]
  | some e => rw [detach_some d he]

/-- An answer of another slot does not meet what an entry gives up. -/
theorem answer_detach {a b : Slot} (h : a ≠ b) (st : Status) (x : Word) :
    (d.answer b st x).detach a = (d.detach a).answer b st x := by
  cases he : d.slots[a] with
  | none => rw [detach_none d he, detach_none _ ((answer_slot_ne d h st x).trans he)]
  | some e =>
    rw [detach_some d he, detach_some _ ((answer_slot_ne d h st x).trans he), Device.detachedPoints,
      Device.answer_points, Device.answer_groups, Device.answer_inputs]
    exact ((answer_withWaits { d with points := d.detachedPoints a e } b st x _ _).trans
      (congrArg (fun y : Device => { y with
        groups := d.groups.map (fun g : Group => { g with waits := g.waits.filter (· != a) })
        inputs := d.inputs.map (fun i : Input => { i with waits := i.waits.filter (· != a) }) })
        (answer_withPoints d b st x (d.detachedPoints a e)))).symm

theorem heldBy_iff {l : List Slot} {p : PointId} :
    d.heldBy l p = true ↔
      ∃ (a : Slot) (e : Entry), d.points[p].claim = some a ∧ a ∈ l ∧ d.slots[a] = some e ∧ pointOf e.record = p := by
  simp only [Device.heldBy, Option.any_eq_true, Bool.and_eq_true, List.contains_iff_mem, beq_iff_eq]
  constructor
  · rintro ⟨a, hc, ha, e, he, hp⟩
    exact ⟨a, e, hc, ha, he, hp⟩
  · rintro ⟨a, e, hc, ha, he, hp⟩
    exact ⟨a, hc, ha, e, he, hp⟩

/-- An entry that gives up its claim leaves its point unclaimed and every other point as it is. -/
theorem detach_point (a : Slot) (p : PointId) :
    (d.detach a).points[p] =
      { d.points[p] with claim := if d.heldBy [a] p then none else d.points[p].claim } := by
  cases hh : d.heldBy [a] p with
  | true =>
    obtain ⟨b, e, hc, hb, he, rfl⟩ := (heldBy_iff d).mp hh
    obtain rfl := List.mem_singleton.mp hb
    rw [detach_some d he, Device.detachedPoints, if_pos hc]
    simp
  | false =>
    cases he : d.slots[a] with
    | none => rw [detach_none d he]; rfl
    | some e =>
      rw [detach_some d he, Device.detachedPoints]
      split
      next hc =>
        have hne : pointOf e.record ≠ p := fun hp => by
          subst hp
          exact Bool.false_ne_true (hh.symm.trans ((heldBy_iff d).mpr ⟨a, e, hc, List.mem_singleton_self a, he, rfl⟩))
        simp [Fin.val_inj, hne]
      · rfl

/-! ## Many entries give up what they hold -/

/-- The entries of a list of slots give up what they hold. -/
def Device.detachAll (l : List Slot) : Device := l.foldl Device.detach d

@[simp] theorem detachAll_nil : d.detachAll [] = d := rfl

@[simp] theorem detachAll_cons (a : Slot) (l : List Slot) : d.detachAll (a :: l) = (d.detach a).detachAll l := rfl

@[simp] theorem detachAll_slots (l : List Slot) : (d.detachAll l).slots = d.slots :=
  foldl_field (g := Device.slots) d detach_slots l

/-- Each point held by an entry of the list is unclaimed, and nothing else of a point changes. -/
theorem detachAll_point (l : List Slot) (p : PointId) :
    (d.detachAll l).points[p] =
      { d.points[p] with claim := if d.heldBy l p then none else d.points[p].claim } := by
  induction l generalizing d with
  | nil => simp [Device.heldBy]
  | cons a l ih =>
    have cons_held : d.heldBy (a :: l) p = (d.heldBy [a] p || d.heldBy l p) := by
      unfold Device.heldBy
      cases d.points[p].claim with
      | none => rfl
      | some c => simp [Bool.and_or_distrib_right]
    rw [detachAll_cons, ih, cons_held]
    cases hh : d.heldBy [a] p with
    | true =>
      rw [detach_point, hh]
      simp
    | false =>
      have same : (d.detach a).points[p] = d.points[p] := by rw [detach_point, hh]; rfl
      have held : (d.detach a).heldBy l p = d.heldBy l p := by
        rw [Device.heldBy, Device.heldBy, same, detach_slots]
      rw [held, same, Bool.false_or]

/-- Taking one slot and then a list of slots out of a wait list takes out the longer list. -/
theorem filter_ne_filter_notMem (a : Slot) (l w : List Slot) :
    (w.filter (· != a)).filter (fun b => !l.contains b) = w.filter (fun b => !(a :: l).contains b) := by
  rw [List.filter_filter]
  refine List.filter_congr fun b _ => ?_
  rw [List.contains_cons, Bool.not_or, Bool.and_comm]
  rfl

/-- The trigger waits lose the slots of the list, the others keep their order (R40). -/
theorem detachAll_input {l : List Slot} (hs : ∀ a ∈ l, d.slots[a] ≠ none) (i : InputId) :
    (d.detachAll l).inputs[i] = { d.inputs[i] with waits := d.inputs[i].waits.filter (fun a => !l.contains a) } := by
  induction l generalizing d with
  | nil => simp
  | cons a l ih =>
    obtain ⟨e, he⟩ := Option.ne_none_iff_exists'.mp (hs a List.mem_cons_self)
    rw [detachAll_cons, ih _ (fun b hb => by rw [detach_slots]; exact hs b (List.mem_cons_of_mem _ hb)),
      detach_some d he]
    simp only [Fin.getElem_fin, Vector.getElem_map, filter_ne_filter_notMem]

/-- The wait lists lose the slots of the list, the others keep their order (R40). -/
theorem detachAll_group {l : List Slot} (hs : ∀ a ∈ l, d.slots[a] ≠ none) (k : Fin 7) :
    (d.detachAll l).groups[k] = { d.groups[k] with waits := d.groups[k].waits.filter (fun a => !l.contains a) } := by
  induction l generalizing d with
  | nil => simp
  | cons a l ih =>
    obtain ⟨e, he⟩ := Option.ne_none_iff_exists'.mp (hs a List.mem_cons_self)
    rw [detachAll_cons, ih _ (fun b hb => by rw [detach_slots]; exact hs b (List.mem_cons_of_mem _ hb)),
      detach_some d he]
    simp only [Fin.getElem_fin, Vector.getElem_map, filter_ne_filter_notMem]

theorem answer_detachAll {b : Slot} {l : List Slot} (h : b ∉ l) (st : Status) (x : Word) :
    (d.answer b st x).detachAll l = (d.detachAll l).answer b st x := by
  induction l generalizing d with
  | nil => rfl
  | cons a l ih =>
    obtain ⟨hba, hbl⟩ := not_or.mp (List.mem_cons.not.mp h)
    rw [detachAll_cons, answer_detach d (Ne.symm hba), ih _ hbl, detachAll_cons]

/-- The cancellation of the entries that `P` picks from a list of slots, one after another: they give up what they hold,
and are answered in the order of the list. -/
theorem foldl_cancelEntry {P : Option Entry → Bool}
    (hP : ∀ o, P o = true → ∃ e, o = some e ∧ e.isLive = true) (st : Status) {l : List Slot} (hl : l.Nodup) :
    l.foldl (fun d a => if P d.slots[a] then d.cancelEntry a st else d) d =
      (d.detachAll (l.filter (fun a => P d.slots[a]))).answerAll (l.filter (fun a => P d.slots[a])) st := by
  induction l generalizing d with
  | nil => rfl
  | cons b l ih =>
    obtain ⟨hb, hl⟩ := List.nodup_cons.mp hl
    rw [List.foldl_cons, List.filter_cons]
    cases hp : P d.slots[b] with
    | false => simpa using ih d hl
    | true =>
      obtain ⟨e, he, hlive⟩ := hP _ hp
      have later : l.filter (fun a => P (((d.detach b).answer b st 0).slots[a])) =
          l.filter (fun a => P d.slots[a]) :=
        List.filter_congr fun a ha => by
          rw [answer_slot_of_mem _ hb ha]
          simp only [detach_slots]
      have hb' : b ∉ l.filter (fun a => P d.slots[a]) := fun h => hb (List.mem_of_mem_filter h)
      rw [if_pos rfl, if_pos rfl, cancelEntry_live d he hlive, ih _ hl, later, answer_detachAll _ hb',
        detachAll_cons, answerAll_cons]

/-! ## The live entries of a ring -/

theorem isLiveOf_iff {r : RingId} {o : Option Entry} :
    isLiveOf r o = true ↔ ∃ e, o = some e ∧ e.ring = r ∧ e.isLive = true := by
  cases o <;> simp [isLiveOf]

/-- The slots of the live entries of ring `r`, in ascending order. -/
def Device.liveSlots (r : RingId) : List Slot := allSlots.filter (fun a => isLiveOf r d.slots[a])

theorem liveSlots_nodup (r : RingId) : (d.liveSlots r).Nodup := (List.nodup_finRange 64).filter _

theorem mem_liveSlots {r : RingId} {a : Slot} : a ∈ d.liveSlots r ↔ isLiveOf r d.slots[a] = true := by
  simp [Device.liveSlots, allSlots]

theorem contains_liveSlots (r : RingId) (a : Slot) : (d.liveSlots r).contains a = isLiveOf r d.slots[a] := by
  rw [Bool.eq_iff_iff, List.contains_iff_mem, mem_liveSlots]

theorem liveSlots_held {r : RingId} {a : Slot} (h : a ∈ d.liveSlots r) : d.slots[a] ≠ none := by
  obtain ⟨e, he, -⟩ := isLiveOf_iff.mp ((mem_liveSlots d).mp h)
  simp [he]

/-- The cancellation of a ring: its live entries give up what they hold and are answered in ascending slot order
(R147, R150). -/
theorem cancelRing_eq (r : RingId) (st : Status) :
    d.cancelRing r st = (d.detachAll (d.liveSlots r)).answerAll (d.liveSlots r) st :=
  foldl_cancelEntry d (fun _ h => by
    obtain ⟨e, he, -, hl⟩ := isLiveOf_iff.mp h
    exact ⟨e, he, hl⟩) st (List.nodup_finRange 64)

end Sys2Proof.Machine
end

section
/-! A ring fault and the cancellation of a ring's live entries (O49). -/

namespace Sys2Proof.Machine

variable (d : Device)

/-- What entries give up lies in the points, the wait lists and the trigger waits. -/
theorem detachAll_eq (l : List Slot) :
    d.detachAll l =
      { d with
        points := (d.detachAll l).points, groups := (d.detachAll l).groups, inputs := (d.detachAll l).inputs } := by
  induction l generalizing d with
  | nil => rfl
  | cons a l ih =>
    rw [detachAll_cons, ih]
    cases he : d.slots[a] with
    | none => rw [detach_none d he]
    | some e => rw [detach_some d he]

@[simp] theorem detachAll_cring (l : List Slot) (n : CRingId) : (d.detachAll l).cring n = d.cring n := by
  rw [detachAll_eq]
  rfl

@[simp] theorem detachAll_binding (l : List Slot) (r : RingId) : (d.detachAll l).binding r = d.binding r := by
  rw [detachAll_eq]
  rfl

@[simp] theorem detachAll_answered (l : List Slot) (e : Entry) (st : Status) (x : Word) :
    (d.detachAll l).answered e st x = d.answered e st x := by
  rw [detachAll_eq]
  rfl

@[simp] theorem detachAll_timing (l : List Slot) : (d.detachAll l).timing = d.timing := by rw [detachAll_eq]

@[simp] theorem detachAll_rings (l : List Slot) : (d.detachAll l).rings = d.rings := by rw [detachAll_eq]

@[simp] theorem detachAll_alert (l : List Slot) : (d.detachAll l).alert = d.alert := by rw [detachAll_eq]

section

variable (r : RingId) (st : Status)

theorem cancelRing_alert : (d.cancelRing r st).alert = d.alert := by
  rw [cancelRing_eq, answerAll_field _ Device.answer_alert, detachAll_alert]

theorem cancelRing_rings : (d.cancelRing r st).rings = d.rings := by
  rw [cancelRing_eq, answerAll_field _ Device.answer_rings, detachAll_rings]

/-- Exactly the ring's live entries are answered. -/
theorem cancelRing_slot (a : Slot) :
    (d.cancelRing r st).slots[a] =
      if isLiveOf r d.slots[a] = true then
        (if (d.cring (d.binding r)).state = .faulted then none
         else d.slots[a].map (fun e => { e with st := .answered ⟨st, 0, d.now⟩ }))
      else d.slots[a] := by
  rw [cancelRing_eq]
  cases hl : isLiveOf r d.slots[a] with
  | true =>
    obtain ⟨e, he, rfl, -⟩ := isLiveOf_iff.mp hl
    rw [answerAll_slot_mem _ (liveSlots_nodup d _)
      (fun b hb => by rw [detachAll_slots]; exact liveSlots_held d hb) st ((mem_liveSlots d).mpr hl)
      (by rw [detachAll_slots]; exact he), detachAll_answered, he]
    rfl
  | false =>
    rw [answerAll_slot_notMem _ st (by rw [mem_liveSlots, hl]; exact Bool.false_ne_true), detachAll_slots]
    rfl

/-- Their timers are withdrawn. -/
theorem cancelRing_timing :
    (d.cancelRing r st).timing = d.timing.filter (fun x => !isLiveOf r d.slots[x.owner]) := by
  rw [cancelRing_eq, answerAll_timing _ (liveSlots_nodup d _)
    (fun b hb => by rw [detachAll_slots]; exact liveSlots_held d hb), detachAll_timing]
  simp only [contains_liveSlots]

/-- They join the queue of the ring's completion ring in ascending slot order. -/
theorem cancelRing_queue (hf : (d.cring (d.binding r)).state ≠ .faulted) :
    ((d.cancelRing r st).cring (d.binding r)).queue = (d.cring (d.binding r)).queue ++ d.liveSlots r := by
  have own : (d.liveSlots r).filter (fun a => d.slots[a].any (fun e => decide (d.binding e.ring = d.binding r))) =
      d.liveSlots r := List.filter_eq_self.mpr fun a ha => by
    obtain ⟨e, he, rfl, -⟩ := isLiveOf_iff.mp ((mem_liveSlots d).mp ha)
    simp [he]
  rw [cancelRing_eq, answerAll_cring _ (liveSlots_nodup d _)
    (fun b hb => by rw [detachAll_slots]; exact liveSlots_held d hb)]
  simp only [detachAll_cring, detachAll_slots, detachAll_binding, hf, if_false, own]

theorem cancelRing_point (p : PointId) :
    (d.cancelRing r st).points[p] =
      { d.points[p] with claim := if d.heldBy (d.liveSlots r) p then none else d.points[p].claim } := by
  rw [cancelRing_eq, answerAll_field _ Device.answer_points]
  exact detachAll_point d _ p

theorem cancelRing_input (i : InputId) :
    (d.cancelRing r st).inputs[i] =
      { d.inputs[i] with waits := d.inputs[i].waits.filter (fun a => !isLiveOf r d.slots[a]) } := by
  rw [cancelRing_eq, answerAll_field _ Device.answer_inputs, detachAll_input d fun a ha => liveSlots_held d ha]
  simp only [contains_liveSlots]

theorem cancelRing_group (k : Fin 7) :
    (d.cancelRing r st).groups[k] =
      { d.groups[k] with waits := d.groups[k].waits.filter (fun a => !isLiveOf r d.slots[a]) } := by
  rw [cancelRing_eq, answerAll_field _ Device.answer_groups, detachAll_group d fun a ha => liveSlots_held d ha]
  simp only [contains_liveSlots]

end

/-- The fault of an ACTIVE action ring (R146, R147). -/
theorem ringFault_active {r : RingId} (hr : r ≠ 0) (ha : d.rings[r].state = .active) (cause : FaultCause) :
    d.ringFault r cause =
      { ({ d.setRing r { d.rings[r] with state := .faulted, cause := cause, buf := [] } with
            channel := d.channel.map
              (fun op => if op.ring = r then { op with discard := true } else op) } : Device).cancelRing r .cxrflt with
        alert := d.alert ||| (1 : Word) <<< r.val } := by
  have stopped : (d.setRing r { d.rings[r] with state := .faulted, cause := cause }).dropBuffer r =
      { d.setRing r { d.rings[r] with state := .faulted, cause := cause, buf := [] } with
        channel := d.channel.map (fun op => if op.ring = r then { op with discard := true } else op) } := by
    simp [Device.dropBuffer, Device.setRing]
  rw [Device.ringFault, if_pos (by simpa [hr] using ha), stopped, Device.raiseAlert, cancelRing_alert]
  rfl

/-- Settles O49: the fault by its one update, the cancellation field by field. -/
theorem ringFaultCancelsEntries : Obligations.RingFaultCancelsEntries := by
  refine ⟨fun d r cause hr => ⟨fun ha => ringFault_active d hr ha cause, fun ha => ?_⟩, fun d t r st n ht hn => ?_⟩
  · exact if_neg (by simpa [hr] using ha)
  · subst hn
    rw [ht]
    refine ⟨cancelRing_slot d r st, fun hf => ?_, cancelRing_timing d r st, fun p c hheld hfree => ?_,
      cancelRing_input d r st, cancelRing_group d r st, cancelRing_rings d r st, cancelRing_alert d r st⟩
    · rw [cancelRing_queue d r st hf, Device.liveSlots, allSlots]
    · have held : d.heldBy (d.liveSlots r) p = true ↔ ∃ (a : Slot) (e : Entry), d.points[p].claim = some a ∧
          d.slots[a] = some e ∧ isLiveOf r d.slots[a] = true ∧ pointOf e.record = p := by
        rw [heldBy_iff]
        refine exists_congr fun a => exists_congr fun e => ?_
        rw [mem_liveSlots]
        tauto
      rw [cancelRing_point]
      by_cases h : d.heldBy (d.liveSlots r) p = true
      · rw [if_pos h, hheld (held.mp h)]
      · rw [if_neg h, hfree (held.not.mp h)]

end Sys2Proof.Machine
end

section
/-! The start of the drain (R181), field by field. -/

namespace Sys2Proof.Machine

variable (d : Device)

/-! ## The pools -/

/-- The action pool is slots 0 to 59 (R44). -/
theorem poolSlots_action : poolSlots 1 = allSlots.filter (fun a => decide (a.val < 60)) := by decide

/-- Ring 0's pool is slots 60 to 63 (R44). -/
theorem poolSlots_admin : poolSlots 0 = allSlots.filter (fun a => decide (60 ≤ a.val)) := by decide

theorem mem_poolSlots_action {a : Slot} : a ∈ poolSlots 1 ↔ a.val < 60 := by
  simp [poolSlots_action, allSlots]

theorem mem_poolSlots_admin {a : Slot} : a ∈ poolSlots 0 ↔ 60 ≤ a.val := by
  simp [poolSlots_admin, allSlots]

theorem actionPoolEmpty_iff : d.actionPoolEmpty = true ↔ ∀ b : Slot, b.val < 60 → d.slots[b] = none := by
  simp [Device.actionPoolEmpty, mem_poolSlots_action]

/-! ## The live action entries -/

/-- The slots of the live action entries, in ascending order (R181). -/
def Device.liveActions : List Slot := (poolSlots 1).filter (fun a => d.slots[a].any Entry.isLive)

theorem liveActions_nodup : d.liveActions.Nodup := by
  rw [Device.liveActions, poolSlots_action]
  exact ((List.nodup_finRange 64).filter _).filter _

theorem mem_liveActions {a : Slot} :
    a ∈ d.liveActions ↔ a.val < 60 ∧ ∃ e, d.slots[a] = some e ∧ e.isLive = true := by
  rw [Device.liveActions, List.mem_filter, mem_poolSlots_action, Option.any_eq_true]

theorem liveActions_held {a : Slot} (h : a ∈ d.liveActions) : d.slots[a] ≠ none := by
  obtain ⟨-, e, he, -⟩ := (mem_liveActions d).mp h
  simp [he]

/-- The cancellation of the action entries: the live ones give up what they hold and are answered in ascending slot
order (R181). -/
theorem cancelActions_eq (st : Status) :
    d.cancelActions st = (d.detachAll d.liveActions).answerAll d.liveActions st := by
  have step : (fun (d : Device) a => d.cancelEntry a st) =
      fun d a => if d.slots[a].any Entry.isLive then d.cancelEntry a st else d := by
    funext d a
    unfold Device.cancelEntry
    cases d.slots[a] with
    | none => rfl
    | some e => cases hl : e.isLive <;> simp [hl]
  rw [Device.cancelActions, step]
  refine foldl_cancelEntry d (P := Option.any Entry.isLive) (fun o ho => Option.any_eq_true _ _ |>.mp ho) st ?_
  rw [poolSlots_action]
  exact (List.nodup_finRange 64).filter _

/-! ## The buffers dropped -/

/-- The buffers of the action rings dropped, and a read of one of them marked discard (R146). Irreducible: its fold
over the four rings is read through the lemmas below. -/
@[irreducible] def Device.dropBuffers : Device := actionRings.foldl Device.dropBuffer d

/-- Dropped buffers change the rings and the channel alone. -/
theorem dropBuffers_eq :
    d.dropBuffers = { d with rings := d.dropBuffers.rings, channel := d.dropBuffers.channel } := by
  unfold Device.dropBuffers
  induction actionRings generalizing d with
  | nil => rfl
  | cons r l ih => exact ih (d.dropBuffer r)

theorem dropBuffer_ring (r q : RingId) :
    (d.dropBuffer r).rings[q] = if q = r then { d.rings[q] with buf := [] } else d.rings[q] := by
  by_cases hq : q = r
  · subst hq
    simp [Device.dropBuffer]
  · simp [Device.dropBuffer, hq, Fin.val_inj, Ne.symm hq]

theorem foldl_dropBuffer_ring (l : List RingId) (q : RingId) :
    (l.foldl Device.dropBuffer d).rings[q] = if q ∈ l then { d.rings[q] with buf := [] } else d.rings[q] := by
  induction l generalizing d with
  | nil => rfl
  | cons r l ih =>
    rw [List.foldl_cons, ih, dropBuffer_ring]
    by_cases hr : q = r <;> by_cases hl : q ∈ l <;> simp [hr, hl]

theorem foldl_dropBuffer_channel (l : List RingId) :
    (l.foldl Device.dropBuffer d).channel =
      d.channel.map (fun op => if op.ring ∈ l then { op with discard := true } else op) := by
  induction l generalizing d with
  | nil => simp
  | cons r l ih =>
    rw [List.foldl_cons, ih]
    cases hc : d.channel with
    | none => simp [Device.dropBuffer, hc]
    | some op => by_cases hr : op.ring = r <;> simp [Device.dropBuffer, hc, hr]

theorem mem_actionRings {r : RingId} : r ∈ actionRings ↔ r ≠ 0 := by
  revert r
  decide

theorem dropBuffers_ring {r : RingId} (hr : r ≠ 0) : d.dropBuffers.rings[r] = { d.rings[r] with buf := [] } := by
  rw [Device.dropBuffers, foldl_dropBuffer_ring, if_pos (mem_actionRings.mpr hr)]

theorem dropBuffers_binding (r : RingId) : d.dropBuffers.binding r = d.binding r := by
  have hb : d.dropBuffers.rings[r].bound = d.rings[r].bound := by
    rw [Device.dropBuffers, foldl_dropBuffer_ring]
    split <;> rfl
  rw [Device.binding, Device.binding, hb]

theorem dropBuffers_channel {op : ReadOp} (h : d.channel = some op) :
    d.dropBuffers.channel = some { op with discard := op.discard || decide (op.ring ≠ 0) } := by
  rw [Device.dropBuffers, foldl_dropBuffer_channel, h, Option.map_some]
  by_cases hr : op.ring = 0
  · have hd : (op.discard || decide (op.ring ≠ 0)) = op.discard := by simp [hr]
    rw [if_neg (mem_actionRings.not.mpr (not_not.mpr hr)), hd]
  · have hd : (op.discard || decide (op.ring ≠ 0)) = true := by simp [hr]
    rw [if_pos (mem_actionRings.mpr hr), hd]

end Sys2Proof.Machine
end

section
/-! The start of the drain field by field, and the ENTER_CONFIGURE that begins it (R181, R182; O32). -/

namespace Sys2Proof.Machine

variable (d : Device)

/-! ## The action entries cancelled, the buffers dropped -/

/-- The action entries cancelled CXMODE after the buffers are dropped: the first part of R181. -/
def Device.cancelledWork : Device := d.dropBuffers.cancelActions .cxmode

/-- The starting event of the drain is that cancellation, with every point OFF, supervision stopped, gates CLOSED and
waits and timers gone. -/
theorem startDrain_eq :
    d.startDrain =
      { d.cancelledWork with
        dstate := .draining
        timing := []
        points := d.cancelledWork.points.map (fun p => p.drive d.cancelledWork.now false)
        sup := { d.cancelledWork.sup with supv := .off, countdown := none }
        groups := (d.cancelledWork.groups.map (fun g => { g with gate := false })).map (fun g => { g with waits := [] })
        inputs := d.cancelledWork.inputs.map (fun i => { i with waits := [] }) } := by
  unfold Device.startDrain Device.cancelWork Device.cancelledWork Device.dropBuffers
  generalize Device.cancelActions _ .cxmode = x
  rfl

theorem dropBuffers_slots : d.dropBuffers.slots = d.slots := by rw [dropBuffers_eq]

theorem dropBuffers_liveActions : d.dropBuffers.liveActions = d.liveActions := by
  rw [Device.liveActions, Device.liveActions, dropBuffers_slots]

theorem dropBuffers_answered (e : Entry) (st : Status) (x : Word) :
    d.dropBuffers.answered e st x = d.answered e st x := by
  rw [Device.answered, Device.answered, dropBuffers_binding, dropBuffers_eq]
  rfl

theorem dropBuffers_cring (n : CRingId) : d.dropBuffers.cring n = d.cring n := by
  rw [dropBuffers_eq]
  rfl

theorem cancelledWork_eq :
    d.cancelledWork = (d.dropBuffers.detachAll d.liveActions).answerAll d.liveActions .cxmode := by
  rw [Device.cancelledWork, cancelActions_eq, dropBuffers_liveActions]

/-- What neither the dropped buffers nor the cancellation of entries touches. -/
theorem cancelledWork_field {α : Type} {f : Device → α}
    (hring : ∀ (d : Device) rs ch, f { d with rings := rs, channel := ch } = f d)
    (hpoint : ∀ (d : Device) ps gs is, f { d with points := ps, groups := gs, inputs := is } = f d)
    (hanswer : ∀ (d : Device) a st x, f (d.answer a st x) = f d) : f d.cancelledWork = f d := by
  rw [cancelledWork_eq, answerAll_field _ hanswer, detachAll_eq, hpoint, dropBuffers_eq, hring]

theorem dropBuffers_held : ∀ a ∈ d.liveActions, d.dropBuffers.slots[a] ≠ none := fun a ha => by
  rw [dropBuffers_slots]
  exact liveActions_held d ha

theorem detachAll_liveActions_held {a : Slot} (h : a ∈ d.liveActions) :
    (d.dropBuffers.detachAll d.liveActions).slots[a] ≠ none := by
  rw [detachAll_slots]
  exact dropBuffers_held d a h

/-- A live action entry is answered CXMODE, or freed (R51, R181). -/
theorem startDrain_slot_live {b : Slot} {e : Entry} (hb : b.val < 60) (he : d.slots[b] = some e)
    (hl : e.isLive = true) : d.startDrain.slots[b] = d.answered e .cxmode 0 := by
  rw [startDrain_eq, cancelledWork_eq]
  dsimp only
  rw [answerAll_slot_mem _ (liveActions_nodup d) (fun _ h => detachAll_liveActions_held d h) _
    ((mem_liveActions d).mpr ⟨hb, e, he, hl⟩) (by rw [detachAll_slots, dropBuffers_slots]; exact he),
    detachAll_answered, dropBuffers_answered]

/-- Every other slot is left. -/
theorem startDrain_slot_other {b : Slot} (h : ¬(b.val < 60 ∧ ∃ e, d.slots[b] = some e ∧ e.isLive = true)) :
    d.startDrain.slots[b] = d.slots[b] := by
  rw [startDrain_eq, cancelledWork_eq]
  dsimp only
  rw [answerAll_slot_notMem _ _ ((mem_liveActions d).not.mpr h), detachAll_slots, dropBuffers_slots]

/-- The cancelled entries join their queues in ascending slot order. -/
theorem startDrain_queue (n : CRingId) :
    d.startDrain.cring n =
      { d.cring n with
        queue := (d.cring n).queue ++
          (if (d.cring n).state = .faulted then []
           else d.liveActions.filter (fun a => d.slots[a].any (fun e => decide (d.binding e.ring = n)))) } := by
  have h : d.startDrain.cring n = d.cancelledWork.cring n := by
    rw [startDrain_eq]
    generalize d.cancelledWork = x
    rfl
  rw [h, cancelledWork_eq, answerAll_cring _ (liveActions_nodup d) (fun _ h => detachAll_liveActions_held d h)]
  simp only [detachAll_cring, detachAll_slots, detachAll_binding, dropBuffers_cring, dropBuffers_slots,
    dropBuffers_binding]

theorem dropBuffers_heldBy (l : List Slot) (p : PointId) : d.dropBuffers.heldBy l p = d.heldBy l p := by
  rw [dropBuffers_eq]
  rfl

theorem cancelledWork_now : d.cancelledWork.now = d.now :=
  cancelledWork_field d (f := Device.now) (fun _ _ _ => rfl) (fun _ _ _ _ => rfl) Device.answer_now

/-- A claim of a live action entry ends (R8). -/
theorem cancelledWork_point (p : PointId) :
    d.cancelledWork.points[p] =
      { d.points[p] with claim := if d.heldBy d.liveActions p then none else d.points[p].claim } := by
  rw [cancelledWork_eq, answerAll_field _ Device.answer_points, detachAll_point, dropBuffers_heldBy, dropBuffers_eq]

/-- Every point is OFF, with a settle window where that is a change (R15, R20). -/
theorem startDrain_point (p : PointId) :
    d.startDrain.points[p] =
      ({ d.points[p] with claim := if d.heldBy d.liveActions p then none else d.points[p].claim } : Point).drive
        d.now false := by
  rw [startDrain_eq, cancelledWork_now]
  dsimp only
  rw [← cancelledWork_point]
  simp

theorem startDrain_group (k : Fin 7) :
    d.startDrain.groups[k] = { d.groups[k] with gate := false, waits := [] } := by
  rw [startDrain_eq, cancelledWork_eq, answerAll_field _ Device.answer_groups]
  simp only [Fin.getElem_fin, Vector.getElem_map]
  refine (congrArg (fun g : Group => { g with gate := false, waits := [] })
    (detachAll_group d.dropBuffers (dropBuffers_held d) k)).trans ?_
  rw [dropBuffers_eq]
  rfl

theorem startDrain_input (i : InputId) :
    d.startDrain.inputs[i] = { d.inputs[i] with waits := [] } := by
  rw [startDrain_eq, cancelledWork_eq, answerAll_field _ Device.answer_inputs]
  simp only [Fin.getElem_fin, Vector.getElem_map]
  refine (congrArg (fun v : Input => { v with waits := [] })
    (detachAll_input d.dropBuffers (dropBuffers_held d) i)).trans ?_
  rw [dropBuffers_eq]
  rfl

theorem startDrain_rings : d.startDrain.rings = d.dropBuffers.rings := by
  rw [startDrain_eq, cancelledWork_eq]
  exact (answerAll_field _ Device.answer_rings _ _).trans (detachAll_rings _ _)

theorem startDrain_channel : d.startDrain.channel = d.dropBuffers.channel := by
  rw [startDrain_eq, cancelledWork_eq]
  refine (answerAll_field _ Device.answer_channel _ _).trans ?_
  rw [detachAll_eq]

theorem startDrain_sup : d.startDrain.sup = { d.sup with supv := .off, countdown := none } := by
  rw [startDrain_eq]
  exact congrArg (fun v : Supervision => { v with supv := .off, countdown := none })
    (cancelledWork_field d (f := Device.sup) (fun _ _ _ => rfl) (fun _ _ _ _ => rfl) Device.answer_sup)

end Sys2Proof.Machine
end

section
/-! The ENTER_CONFIGURE that begins the drain, and ends it at once when no action entry remains (R181, R182; O32). -/

namespace Sys2Proof.Machine

variable (d : Device)

/-! ## The taking -/

/-- A taking of ring 0 fills a free slot of its own pool while no admin operation is active (R44, R57). -/
theorem takes_admin_slot {head : RawRecord} {rest : List RawRecord} {a : Slot} (h : d.Takes 0 head rest a) :
    60 ≤ a.val ∧ d.slots[a] = none ∧ d.adminActive? = none := by
  unfold Device.Takes Device.taken? at h
  split at h
  next x l b hbuf hfree =>
    split at h
    next hm =>
      simp only [Option.some.injEq, Prod.mk.injEq] at h
      obtain ⟨rfl, rfl, rfl⟩ := h
      refine ⟨mem_poolSlots_admin.mp (List.mem_of_find?_eq_some hfree), ?_, ?_⟩
      · simpa using List.find?_some hfree
      · simp only [Device.ringMayTake, if_true, Bool.and_eq_true, Option.isNone_iff_eq_none] at hm
        exact hm.2
    · cases h
  · cases h

/-- The entry just taken, in another state (R46). -/
theorem takeHead_setEntryState (r : RingId) (a : Slot) (head : RawRecord) (rest : List RawRecord) (st : EntryState) :
    (d.takeHead r a head rest).setEntryState a st =
      (d.takeHead r a head rest).setSlot a (some (d.entryOf r head st)) := by
  rw [Device.setEntryState, takeHead_slot]
  rfl

/-- A taking advances its ring's tail and keeps every binding. -/
theorem takeHead_bound (r q : RingId) (a : Slot) (head : RawRecord) (rest : List RawRecord) :
    (d.takeHead r a head rest).binding q = d.binding q := by
  unfold Device.binding
  rw [Device.takeHead_rings]
  by_cases hq : r = q
  · subst hq
    simp
  · simp [Fin.val_inj, hq]

/-! ## The end of the drain -/

/-- The only element of a list that passes a test is the first that does. -/
theorem find?_eq_some_of_unique {l : List Slot} {p : Slot → Bool} {a : Slot} (ha : a ∈ l) (hp : p a = true)
    (hu : ∀ b ∈ l, p b = true → b = a) : l.find? p = some a := by
  cases h : l.find? p with
  | none => exact absurd hp (List.find?_eq_none.mp h a ha)
  | some b => rw [hu b (List.mem_of_find?_eq_some h) (List.find?_some h)]

/-- Points that are OFF already stay as they are (R3). -/
theorem allOff_of_off (h : ∀ p : PointId, d.points[p].level = false) : d.allOff = d := by
  have hp : d.points.map (fun p => p.drive d.now false) = d.points := Vector.ext fun n hn => by
    rw [Vector.getElem_map, Point.drive]
    exact if_pos (h ⟨n, hn⟩)
  rw [Device.allOff, hp]

/-- The drain's end, when no action entry remains: CONFIGURE, and the ENTER_CONFIGURE answered DONE (R182). -/
def Device.drainedTo (a : Slot) : Device :=
  if d.actionPoolEmpty then ({ d with dstate := .configure } : Device).answer a .done 0 else d

theorem drainedTo_field {α : Type} {f : Device → α} (hs : ∀ (d : Device) x, f { d with dstate := x } = f d)
    (ha : ∀ (d : Device) a st x, f (d.answer a st x) = f d) (a : Slot) : f (d.drainedTo a) = f d := by
  unfold Device.drainedTo
  split
  · rw [ha, hs]
  · rfl

theorem drainedTo_slot_ne {a b : Slot} (h : b ≠ a) : (d.drainedTo a).slots[b] = d.slots[b] := by
  unfold Device.drainedTo
  split
  · exact answer_slot_ne { d with dstate := .configure } h _ _
  · rfl

/-- A drain with its ENTER_CONFIGURE active and every point OFF ends when no action entry remains (R182). -/
theorem endOps_drain {a : Slot} {e : Entry} (ha : d.adminActive? = some a) (he : d.slots[a] = some e)
    (hk : adminKindOf e.record = some .enterConfigure) (hd : d.dstate = .draining)
    (hoff : ∀ p : PointId, d.points[p].level = false) : d.endOps = d.drainedTo a := by
  unfold Device.endOps
  rw [ha]
  dsimp only
  rw [he]
  dsimp only
  rw [hk]
  dsimp only
  rw [Device.endDrain, Device.drainedTo, allOff_of_off d hoff, hd, beq_self_eq_true, Bool.true_and]

/-- A point driven OFF, field by field (R15, R20). -/
theorem drive_off_eq (p : Point) (now : Time) :
    p.drive now false =
      { p with
        level := false
        window := if p.level = true ∧ p.readback = true ∧ p.pstate = .normal then some (now + 200) else p.window } := by
  obtain ⟨group, mode, readback, level, pstate, claim, window, sense⟩ := p
  cases level <;> simp [Point.drive, settleTicks]

end Sys2Proof.Machine
end

section
/-! The statement on ENTER_CONFIGURE (O32). -/

namespace Sys2Proof.Machine

variable (d : Device) (head : RawRecord) (rest : List RawRecord) (a : Slot)

/-- The block with the ENTER_CONFIGURE taken and ADMIN_ACTIVE, before its drain starts (R181). -/
def Device.configureTaken : Device := (d.takeHead 0 a head rest).setSlot a (some (d.entryOf 0 head .adminActive))

/-- The taking touches the slots and ring 0 alone. -/
theorem configureTaken_eq :
    d.configureTaken head rest a =
      { d with slots := (d.configureTaken head rest a).slots, rings := (d.configureTaken head rest a).rings } := rfl

theorem configureTaken_slot_same :
    (d.configureTaken head rest a).slots[a] = some (d.entryOf 0 head .adminActive) := by
  simp [Device.configureTaken]

theorem configureTaken_slot_ne {b : Slot} (h : b ≠ a) : (d.configureTaken head rest a).slots[b] = d.slots[b] := by
  simp [Device.configureTaken, Fin.val_inj, h.symm]

theorem configureTaken_binding (r : RingId) : (d.configureTaken head rest a).binding r = d.binding r :=
  takeHead_bound d 0 r a head rest

theorem configureTaken_cring (n : CRingId) : (d.configureTaken head rest a).cring n = d.cring n := by
  cases n <;> rfl

theorem configureTaken_ring {r : RingId} (hr : r ≠ 0) : (d.configureTaken head rest a).rings[r] = d.rings[r] := by
  rw [Device.configureTaken, Device.setSlot_rings, Device.takeHead_rings]
  exact Vector.getElem_set_ne _ _ fun h => hr (Fin.ext h.symm)

/-- The block as the taking event leaves it before it closes (R181, R182). Irreducible: it is read
through the lemmas about its fields. -/
@[irreducible] def Device.configureEntered : Device := (d.configureTaken head rest a).startDrain.drainedTo a

variable {d head rest a}

/-- A slot of the action pool is none of ring 0's pool (R44). -/
theorem action_slot_ne {b : Slot} (hb : b.val < 60) (ha : 60 ≤ a.val) : b ≠ a := by
  rintro rfl
  omega

theorem configureTaken_liveActions (ha : 60 ≤ a.val) :
    (d.configureTaken head rest a).liveActions = d.liveActions := by
  refine List.filter_congr fun b hb => ?_
  have hne : b ≠ a := action_slot_ne (mem_poolSlots_action.mp hb) ha
  rw [configureTaken_slot_ne _ _ _ _ hne]

/-- The taking of a well-formed ENTER_CONFIGURE in RUN, closed. -/
theorem closes_enterConfigure {s : State} (ht : s.dev.TakesAdmin .enterConfigure head rest a)
    (hrun : s.dev.dstate = .run) (hok : adminReservedOk .enterConfigure head = true) :
    Closes .enterConfigure s (s.dev.configureEntered head rest a) := by
  refine closes_admin rfl ht (by simp [Device.adminPermitted, hrun]) ?_
  obtain ⟨ha, -, hidle⟩ := takes_admin_slot s.dev ht.1
  unfold Device.doEnterConfigure Device.configureEntered
  rw [if_pos hok, takeHead_setEntryState]
  generalize hz : Device.setSlot _ a _ = z
  have hz' : z = s.dev.configureTaken head rest a := hz.symm
  have slot_a : z.startDrain.slots[a] = some (s.dev.entryOf 0 head .adminActive) := by
    rw [startDrain_slot_other z (fun h => by omega), hz', configureTaken_slot_same]
  have active : z.startDrain.adminActive? = some a := by
    refine find?_eq_some_of_unique (mem_poolSlots_admin.mpr ha) (by rw [slot_a]; rfl) fun b hb hactive => ?_
    by_contra hne
    have hb' := mem_poolSlots_admin.mp hb
    rw [startDrain_slot_other z (fun h => by omega), hz', configureTaken_slot_ne _ _ _ _ hne] at hactive
    exact List.find?_eq_none.mp hidle b hb hactive
  rw [← hz']
  refine endOps_drain _ active slot_a ht.2 (by rw [startDrain_eq]) fun p => ?_
  rw [startDrain_point, drive_off_eq]

/-! ## The block after the event's effect -/

section

variable (ha : 60 ≤ a.val)

include ha

theorem configureEntered_dstate :
    (d.configureEntered head rest a).dstate = .configure ∧
        (∀ b : Slot, b.val < 60 → (d.configureEntered head rest a).slots[b] = none) ∨
      (d.configureEntered head rest a).dstate = .draining ∧
        (∃ b : Slot, b.val < 60 ∧ (d.configureEntered head rest a).slots[b] ≠ none) ∧
        (d.configureEntered head rest a).slots[a] = some (d.entryOf 0 head .adminActive) := by
  unfold Device.configureEntered
  cases he : (d.configureTaken head rest a).startDrain.actionPoolEmpty with
  | true =>
    refine .inl ⟨?_, fun b hb => ?_⟩
    · rw [Device.drainedTo, if_pos he, Device.answer_dstate]
    · rw [drainedTo_slot_ne _ (action_slot_ne hb ha)]
      exact (actionPoolEmpty_iff _).mp he b hb
  | false =>
    have hstay : (d.configureTaken head rest a).startDrain.drainedTo a = (d.configureTaken head rest a).startDrain :=
      if_neg (by rw [he]; exact Bool.false_ne_true)
    rw [hstay]
    refine .inr ⟨by rw [startDrain_eq], ?_, ?_⟩
    · simpa using (actionPoolEmpty_iff _).not.mp (Bool.eq_false_iff.mp he)
    · rw [startDrain_slot_other _ (fun h => by omega), configureTaken_slot_same]

/-- A live action entry is answered CXMODE or freed, an answered one stays (R181). -/
theorem configureEntered_slot {b : Slot} {e : Entry} (hb : b.val < 60) (he : d.slots[b] = some e) :
    (d.configureEntered head rest a).slots[b] = if e.isLive = true then d.answered e .cxmode 0 else some e := by
  have hne : b ≠ a := action_slot_ne hb ha
  have he' : (d.configureTaken head rest a).slots[b] = some e := (configureTaken_slot_ne d head rest a hne).trans he
  unfold Device.configureEntered
  rw [drainedTo_slot_ne _ hne]
  by_cases hl : e.isLive = true
  · rw [startDrain_slot_live _ hb he' hl, if_pos hl, Device.answered, Device.answered, configureTaken_binding,
      configureTaken_cring]
    rfl
  · rw [startDrain_slot_other, he', if_neg hl]
    rintro ⟨-, x, hx, hxl⟩
    exact hl (Option.some.inj (he'.symm.trans hx) ▸ hxl)

theorem configureEntered_slot_none {b : Slot} (hb : b.val < 60) (he : d.slots[b] = none) :
    (d.configureEntered head rest a).slots[b] = none := by
  have hne : b ≠ a := action_slot_ne hb ha
  have he' : (d.configureTaken head rest a).slots[b] = none := (configureTaken_slot_ne d head rest a hne).trans he
  unfold Device.configureEntered
  rw [drainedTo_slot_ne _ hne, startDrain_slot_other, he']
  rintro ⟨-, x, hx, -⟩
  rw [he'] at hx
  cases hx

end
end Sys2Proof.Machine
end

section
/-! The statement on ENTER_CONFIGURE, assembled field by field (O32). -/

namespace Sys2Proof.Machine

variable {d : Device} {head : RawRecord} {rest : List RawRecord} {a : Slot}

/-! ## The block after the event's effect, beside its slots -/

/-- The drain's end changes no field that neither DSTATE nor an answer touches. -/
theorem configureEntered_field {α : Type} {f : Device → α} (hs : ∀ (d : Device) x, f { d with dstate := x } = f d)
    (ha : ∀ (d : Device) a st x, f (d.answer a st x) = f d) :
    f (d.configureEntered head rest a) = f (d.configureTaken head rest a).startDrain := by
  unfold Device.configureEntered
  exact drainedTo_field _ hs ha a

theorem configureEntered_point (p : PointId) :
    (d.configureEntered head rest a).points[p] = (d.configureTaken head rest a).startDrain.points[p] :=
  congrArg (fun v : Vector Point 64 => v[p])
    (configureEntered_field (f := Device.points) (fun _ _ => rfl) Device.answer_points)

/-- Every point is OFF, with a settle window opened where that is a change of a NORMAL point with READBACK on (R15,
R20). -/
theorem configureEntered_point_off (p : PointId) :
    (d.configureEntered head rest a).points[p] =
      { d.points[p] with
        level := false
        claim := (d.configureEntered head rest a).points[p].claim
        window :=
          if d.points[p].level = true ∧ d.points[p].readback = true ∧ d.points[p].pstate = .normal then
            some (d.now + 200)
          else d.points[p].window } := by
  rw [configureEntered_point, startDrain_point, drive_off_eq]
  rfl

/-- Every claim is a TIMED action entry's, so the cancellation ends it (R8). -/
theorem configureEntered_unclaimed (ha : 60 ≤ a.val) (hc : d.ClaimsTied) (ht : d.TimersTied) (p : PointId) :
    (d.configureEntered head rest a).points[p].claim = none := by
  rw [configureEntered_point, startDrain_point, drive_off_eq]
  dsimp only
  have hpoint : (d.configureTaken head rest a).points[p] = d.points[p] := rfl
  rw [hpoint]
  cases hclaim : d.points[p].claim with
  | none => exact ite_self _
  | some b =>
    obtain ⟨e, blink, he, hst, hp⟩ := (hc p b).mp hclaim
    obtain ⟨hb, -⟩ := ht.2.2 b e blink he hst
    have hlive : e.isLive = true := by rw [Entry.isLive, hst]
    refine if_pos ((heldBy_iff (d.configureTaken head rest a)).mpr ⟨b, e, hclaim, ?_, ?_, hp⟩)
    · rw [configureTaken_liveActions ha]
      exact (mem_liveActions d).mpr ⟨hb, e, he, hlive⟩
    · rw [configureTaken_slot_ne _ _ _ _ (action_slot_ne hb ha), he]

theorem configureEntered_group (k : Fin 7) :
    (d.configureEntered head rest a).groups[k] = { d.groups[k] with gate := false, waits := [] } :=
  (congrArg (fun v : Vector Group 7 => v[k])
    (configureEntered_field (f := Device.groups) (fun _ _ => rfl) Device.answer_groups)).trans (startDrain_group _ k)

theorem configureEntered_input (i : InputId) :
    (d.configureEntered head rest a).inputs[i] = { d.inputs[i] with waits := [] } :=
  (congrArg (fun v : Vector Input 32 => v[i])
    (configureEntered_field (f := Device.inputs) (fun _ _ => rfl) Device.answer_inputs)).trans (startDrain_input _ i)

theorem configureEntered_sup :
    (d.configureEntered head rest a).sup = { d.sup with supv := .off, countdown := none } :=
  (configureEntered_field (f := Device.sup) (fun _ _ => rfl) Device.answer_sup).trans (startDrain_sup _)

theorem configureEntered_ring {r : RingId} (hr : r ≠ 0) :
    (d.configureEntered head rest a).rings[r] = { d.rings[r] with buf := [] } := by
  rw [configureEntered_field (f := Device.rings) (fun _ _ => rfl) Device.answer_rings, startDrain_rings,
    dropBuffers_ring _ hr, configureTaken_ring _ _ _ _ hr]

/-- A read in flight stays in flight, marked discard when it is an action ring's (R146). -/
theorem configureEntered_nextRead {op : ReadOp} (h : d.channel = some op) :
    (d.configureEntered head rest a).nextRead = some { op with discard := op.discard || decide (op.ring ≠ 0) } := by
  have hch : (d.configureEntered head rest a).channel =
      some { op with discard := op.discard || decide (op.ring ≠ 0) } := by
    rw [configureEntered_field (f := Device.channel) (fun _ _ => rfl) Device.answer_channel, startDrain_channel]
    exact dropBuffers_channel (d.configureTaken head rest a) h
  rw [Device.nextRead, hch]

/-- What the drain's start and end leave: whatever is no part of the table, the points, gates, waits, timers, rings and
supervision. -/
theorem configureEntered_kept {α : Type} {f : Device → α}
    (hring : ∀ (d : Device) rs ch, f { d with rings := rs, channel := ch } = f d)
    (hpoint : ∀ (d : Device) ps gs is, f { d with points := ps, groups := gs, inputs := is } = f d)
    (hanswer : ∀ (d : Device) a st x, f (d.answer a st x) = f d)
    (hslots : ∀ (d : Device) x, f { d with slots := x } = f d)
    (hoff : ∀ (d : Device) v sup tl, f { d with dstate := v, sup := sup, timing := tl } = f d) :
    f (d.configureEntered head rest a) = f d := by
  refine (configureEntered_field (fun d x => hoff d x _ _) hanswer).trans ?_
  have hwork : f (d.configureTaken head rest a).cancelledWork = f d := by
    rw [cancelledWork_field _ hring hpoint hanswer, configureTaken_eq]
    exact (hslots { d with rings := (d.configureTaken head rest a).rings } _).trans (hring d _ _)
  rw [startDrain_eq]
  generalize (d.configureTaken head rest a).cancelledWork = x at hwork
  exact (hpoint { x with dstate := _, sup := _, timing := _ } _ _ _).trans ((hoff x _ _ _).trans hwork)

/-! ## The Timing List and the answer queues -/

theorem configureEntered_timing : (d.configureEntered head rest a).timing = [] := by
  unfold Device.configureEntered Device.drainedTo
  have hstart : (d.configureTaken head rest a).startDrain.timing = [] := by rw [startDrain_eq]
  generalize (d.configureTaken head rest a).startDrain = x at hstart
  split
  · cases he : x.slots[a] with
    | none => rw [answer_none { x with dstate := .configure } he, hstart]
    | some e => rw [answer_timing { x with dstate := .configure } he, hstart]; rfl
  · exact hstart

/-- The ENTER_CONFIGURE's own answer joins C0's queue when the drain ends (R182). -/
theorem drainedTo_queue {d : Device} {e : Entry} (he : d.slots[a] = some e) (hb : d.binding e.ring = .c0)
    (hd : d.dstate = .draining) (n : CRingId) :
    ((d.drainedTo a).cring n).queue =
      (d.cring n).queue ++
        (if (d.cring n).state = .faulted then []
         else if n = .c0 ∧ (d.drainedTo a).dstate = .configure then [a] else []) := by
  unfold Device.drainedTo
  split
  · rw [answer_cring { d with dstate := .configure } he, Device.answer_dstate]
    refine congrArg ((d.cring n).queue ++ ·) ?_
    change (if d.binding e.ring = n ∧ (d.cring n).state ≠ .faulted then [a] else []) = _
    rw [hb]
    cases n <;> by_cases hf : (d.cring .c0).state = .faulted <;> simp
  · simp [hd]

/-- The queues gain the cancelled entries in ascending slot order and, when the drain ends, the ENTER_CONFIGURE (R158,
R181, R182). -/
theorem configureEntered_queue (ha : 60 ≤ a.val) (n : CRingId) :
    ((d.configureEntered head rest a).cring n).queue =
      (d.cring n).queue ++
        (if (d.cring n).state = .faulted then []
         else
           (List.finRange 64).filter
               (fun b => decide (b.val < 60) &&
                 d.slots[b].any (fun e => e.isLive && decide (d.binding e.ring = n))) ++
             (if n = .c0 ∧ (d.configureEntered head rest a).dstate = .configure then [a] else [])) := by
  have hself : (d.configureTaken head rest a).startDrain.slots[a] = some (d.entryOf 0 head .adminActive) := by
    rw [startDrain_slot_other _ (fun h => absurd h.1 (by omega)), configureTaken_slot_same]
  have hlist : (d.configureTaken head rest a).liveActions.filter (fun b => (d.configureTaken head rest a).slots[b].any
        (fun e => decide ((d.configureTaken head rest a).binding e.ring = n))) =
      (List.finRange 64).filter (fun b => decide (b.val < 60) &&
        d.slots[b].any (fun e => e.isLive && decide (d.binding e.ring = n))) := by
    rw [configureTaken_liveActions ha, Device.liveActions, poolSlots_action, List.filter_filter, List.filter_filter]
    refine List.filter_congr fun b _ => ?_
    by_cases hb : b.val < 60
    · rw [configureTaken_slot_ne _ _ _ _ (action_slot_ne hb ha)]
      simp only [configureTaken_binding]
      cases d.slots[b] <;> simp [hb, Bool.and_comm]
    · simp [hb]
  unfold Device.configureEntered
  rw [drainedTo_queue hself rfl (by rw [startDrain_eq]) n]
  rw [startDrain_queue, configureTaken_cring, hlist]
  dsimp only
  split <;> simp

/-! ## The statement -/

/-- Settles O32: with the bus ready the close keeps every field but the channel, so each is the entered block's. -/
theorem enterConfigureStartsDrain : Obligations.EnterConfigureStartsDrain := by
  intro s head rest a ht hrun hready hok
  obtain ⟨ha, -⟩ := takes_admin_slot s.dev ht.1
  have hcloses := closes_enterConfigure ht hrun hok
  have hsetup := ((configurationKept .enterConfigure s _ hcloses rfl).1 (.inl (by rw [hrun]; decide))).1
  have hbus : (s.dev.configureEntered head rest a).busReady = true :=
    (configureEntered_kept (f := Device.busReady) (fun _ _ _ => rfl) (fun _ _ _ _ => rfl)
      (fun d a st x => by rw [Device.busReady, Device.answer_link]; rfl) (fun _ _ => rfl)
      (fun _ _ _ _ => rfl)).trans hready
  obtain ⟨messages, hclose⟩ := closedFrom_of_busReady s.dev _ hbus
  have hqueue (n : CRingId) : ((s.dev.closedFrom (s.dev.configureEntered head rest a)).cring n).queue =
      ((s.dev.configureEntered head rest a).cring n).queue := by
    rw [hclose]
    cases n <;> rfl
  refine ⟨_, hcloses, rfl, ?_⟩
  simp only [hqueue]
  refine ⟨?_, ?_, ?_, ?_, ?_, ?_, ?_, ?_, ?_, ?_, ?_, ?_, hsetup, ?_, ?_⟩ <;> rw [hclose]
  · exact configureEntered_dstate ha
  · exact fun b e hb he => configureEntered_slot ha hb he
  · exact fun b hb he => configureEntered_slot_none ha hb he
  · exact configureEntered_queue ha
  · exact configureEntered_point_off
  · exact configureEntered_unclaimed ha
  · exact configureEntered_group
  · exact configureEntered_input
  · exact configureEntered_timing
  · exact configureEntered_sup
  · exact fun r => configureEntered_ring
  · exact fun op => configureEntered_nextRead
  · exact configureEntered_kept (f := Device.alert) (fun _ _ _ => rfl) (fun _ _ _ _ => rfl) Device.answer_alert
      (fun _ _ => rfl) (fun _ _ _ _ => rfl)
  · exact configureEntered_kept (f := Device.now) (fun _ _ _ => rfl) (fun _ _ _ _ => rfl) Device.answer_now
      (fun _ _ => rfl) (fun _ _ _ _ => rfl)

end Sys2Proof.Machine
end

section
/-! What one answer does to its entry, its timer and its completion ring (O15). -/

namespace Sys2Proof.Machine

/-- Settles O15, by the state of the completion ring the entry's ring is bound to. -/
theorem answerJoinsQueue : Obligations.AnswerJoinsQueue := by
  intro d a e st x n he hn
  have hbinding : d.binding e.ring = n := hn.symm
  unfold Device.answer
  rw [he]
  dsimp only
  rw [hbinding]
  refine ⟨fun hs => ?_, fun hs => ?_⟩
  · rw [if_neg (by simpa using hs)]
    cases n <;> rfl
  · rw [if_pos (by simpa using hs)]
    rfl

end Sys2Proof.Machine
end

section
/-! Records by their bytes: zero fields as zero bytes, and what validation of an action record accepts (R29, 12.1). -/

namespace Sys2Proof.Machine

/-! ## Zero fields -/

section

variable {n : Nat} (r : BitVec n)

/-- A field is zero exactly when each of its bits is. -/
theorem extractLsb'_eq_zero_iff (start len : Nat) :
    r.extractLsb' start len = 0 ↔ ∀ j < len, r.getLsbD (start + j) = false := by
  refine ⟨fun h j hj => ?_, fun h => BitVec.eq_of_getLsbD_eq fun j hj => ?_⟩
  · have hbit := congrArg (BitVec.getLsbD · j) h
    simpa [hj] using hbit
  · simpa [hj] using h j hj

/-- A field of `k` whole bytes is zero exactly when its bytes are. -/
theorem extractBytes_eq_zero_iff (lo k : Nat) :
    r.extractLsb' (8 * lo) (8 * k) = 0 ↔ ZeroBytes r lo (lo + k) := by
  rw [extractLsb'_eq_zero_iff]
  refine ⟨fun h i hlo hhi => (extractLsb'_eq_zero_iff r _ _).mpr fun j hj => ?_, fun h j hj => ?_⟩
  · have hbit := h (8 * (i - lo) + j) (by omega)
    rwa [show 8 * lo + (8 * (i - lo) + j) = 8 * i + j by omega] at hbit
  · have hbit := (extractLsb'_eq_zero_iff r _ _).mp (h (lo + j / 8) (by omega) (by omega)) (j % 8) (by omega)
    rwa [show 8 * (lo + j / 8) + j % 8 = 8 * lo + j by omega] at hbit

/-- A range of zero bytes by its first byte. -/
theorem zeroBytes_cons {lo hi : Nat} (h : lo < hi) :
    ZeroBytes r lo hi ↔ byteAt r lo = 0 ∧ ZeroBytes r (lo + 1) hi := by
  refine ⟨fun hz => ⟨hz lo le_rfl h, fun i hlo => hz i (by omega)⟩, fun ⟨hfirst, hz⟩ i hlo hhi => ?_⟩
  obtain rfl | hlt := hlo.eq_or_lt
  · exact hfirst
  · exact hz i hlt hhi

theorem zeroBytes_self (lo : Nat) : ZeroBytes r lo lo := fun i hlo hhi => absurd hhi (by omega)

/-- A 16-bit field is zero exactly when its two bytes are. -/
theorem halfAt_eq_zero_iff (i : Nat) : halfAt r i = 0 ↔ byteAt r i = 0 ∧ byteAt r (i + 1) = 0 := by
  rw [halfAt, extractBytes_eq_zero_iff r i 2, zeroBytes_cons r (by omega), zeroBytes_cons r (by omega)]
  simp [zeroBytes_self]

end

/-! ## Validation -/

/-- The upper half of a byte is zero (R29: the reserved bits of FLAGS). -/
theorem upperNibble_eq_zero_iff (b : Byte) : b.extractLsb' 4 4 = 0 ↔ b.toNat < 16 := by
  rw [BitVec.toNat_eq, BitVec.extractLsb'_toNat, Nat.shiftRight_eq_div_pow]
  have := b.isLt
  simp
  omega

/-- UNIT, COUNT and CYCLES zero (R25). -/
theorem noDuration_iff (r : RawRecord) : noDuration r = true ↔ ZeroBytes r 5 9 := by
  rw [zeroBytes_cons r (by omega), zeroBytes_cons r (by omega), zeroBytes_cons r (by omega),
    zeroBytes_cons r (by omega)]
  simp only [noDuration, Bool.and_eq_true, beq_iff_eq, halfAt_eq_zero_iff, zeroBytes_self, and_true, and_assoc]

/-- The trigger fields: an input and an edge with TRIG, zero without (R26). -/
theorem triggerFieldsOk_iff (r : RawRecord) :
    triggerFieldsOk r = true ↔
      (byteAt r 10).toNat ≤ 3 ∧
        ((byteAt r 1).getLsbD 3 = true → (byteAt r 9).toNat ≤ 31 ∧ byteAt r 10 ≠ 0) ∧
        ((byteAt r 1).getLsbD 3 = false → byteAt r 9 = 0 ∧ byteAt r 10 = 0) := by
  unfold triggerFieldsOk trigOf
  cases (byteAt r 1).getLsbD 3 with
  | true =>
    simp only [if_true, Bool.and_eq_true, decide_eq_true_eq, bne_iff_ne]
    tauto
  | false =>
    simp only [Bool.false_eq_true, if_false, Bool.and_eq_true, beq_iff_eq, false_implies, true_and, forall_const]
    exact ⟨fun h => ⟨by simp [h.2], h⟩, fun h => h.2⟩

/-- What R29 asks of every action record, as its bytes hold it. -/
def CommonFields (r : RawRecord) : Prop :=
  (byteAt r 1).toNat < 16 ∧ (byteAt r 5).toNat ≤ 3 ∧ (byteAt r 10).toNat ≤ 3 ∧ (byteAt r 11).toNat ≤ 3 ∧
  ZeroBytes r 14 32 ∧ (halfAt r 12 = 0 → byteAt r 11 = 0) ∧
  ((byteAt r 1).getLsbD 3 = true → (byteAt r 9).toNat ≤ 31 ∧ byteAt r 10 ≠ 0) ∧
  ((byteAt r 1).getLsbD 3 = false → byteAt r 9 = 0 ∧ byteAt r 10 = 0)

theorem commonFieldsOk_iff (r : RawRecord) : commonFieldsOk r = true ↔ CommonFields r := by
  have hreserved : r.extractLsb' 112 144 = 0 ↔ ZeroBytes r 14 32 := extractBytes_eq_zero_iff r 14 18
  simp only [commonFieldsOk, CommonFields, Bool.and_eq_true, Bool.or_eq_true, beq_iff_eq, bne_iff_ne,
    decide_eq_true_eq, upperNibble_eq_zero_iff, hreserved, triggerFieldsOk_iff, ne_eq, ← Decidable.imp_iff_not_or,
    and_assoc]
  exact ⟨fun ⟨flags, reserved, unit, lunit, limit, edge, trig⟩ => ⟨flags, unit, edge, lunit, reserved, limit, trig⟩,
    fun ⟨flags, unit, edge, lunit, reserved, limit, trig⟩ => ⟨flags, reserved, unit, lunit, limit, edge, trig⟩⟩

/-- Validation accepts what the table of R29 admits for the record's kind. -/
theorem validAction_iff (k : ActionKind) (r : RawRecord) : validAction k r = true ↔ ActionFields k r := by
  have hkeepalive : ZeroBytes r 4 9 ↔ byteAt r 4 = 0 ∧ ZeroBytes r 5 9 := zeroBytes_cons r (by omega)
  rw [validAction, Bool.and_eq_true, commonFieldsOk_iff]
  unfold ActionFields CommonFields
  cases k with
  | set | clear =>
    simp only [kindFieldsOk, outputPointOk, noDuration_iff, Bool.and_eq_true, decide_eq_true_eq, and_assoc]
  | pulse | delaySet | delayClear =>
    simp only [kindFieldsOk, outputPointOk, Bool.and_eq_true, decide_eq_true_eq, beq_iff_eq, bne_iff_ne, and_assoc]
  | blink =>
    simp only [kindFieldsOk, outputPointOk, Bool.and_eq_true, decide_eq_true_eq, bne_iff_ne, and_assoc]
  | note =>
    simp only [kindFieldsOk, noDuration_iff, trigOf, waitGateOf, supersedeOf, Bool.and_eq_true, decide_eq_true_eq,
      beq_iff_eq, Bool.not_eq_true', and_assoc]
  | keepalive =>
    simp only [kindFieldsOk, noDuration_iff, trigOf, waitGateOf, supersedeOf, Bool.and_eq_true, beq_iff_eq,
      Bool.not_eq_true', hkeepalive, and_assoc]

/-! ## KIND -/

/-- The KIND codes of the action kinds (12.2). -/
theorem actionKindOf_iff (k : ActionKind) (r : RawRecord) :
    actionKindOf r = some k ↔ (byteAt r 0).toNat = actionKindCode k := by
  refine ⟨fun h => ?_, fun h => ?_⟩
  · unfold actionKindOf at h
    split at h <;> cases h <;> assumption
  · rw [actionKindOf, h]
    cases k <;> rfl

end Sys2Proof.Machine
end

section
/-! The takings of action records that end in an answer or a trigger wait: malformed records (O16), refused ones (O18),
trigger waits (O23) and KEEPALIVE (O24). -/

namespace Sys2Proof.Machine

variable {s : State} {d : Device} {k : ActionKind} {r : RingId} {head : RawRecord} {rest : List RawRecord} {a : Slot}

/-! ## The takings of NOTE and KEEPALIVE -/

/-- A taking of a NOTE runs its intake. -/
theorem closes_note {x : Device} (ht : s.dev.TakesAction .note r head rest a)
    (hx : Device.intakeNote a head (s.dev.takeHead r a head rest) = x) : Closes (.note r) s x := by
  obtain ⟨htake, hr, hk⟩ := ht
  exact closes_taking rfl htake (by simp [isActionKind, hr, hk]) hx

/-- A taking of a KEEPALIVE runs its intake. -/
theorem closes_keepalive {x : Device} (ht : s.dev.TakesAction .keepalive r head rest a)
    (hx : Device.intakeKeepalive a head (s.dev.takeHead r a head rest) = x) : Closes (.keepalive r) s x := by
  obtain ⟨htake, hr, hk⟩ := ht
  exact closes_taking rfl htake (by simp [isActionKind, hr, hk]) hx

/-! ## Malformed records -/

/-- A record of an action kind that fails validation is answered BADREC (R30). -/
theorem closes_invalid (ht : s.dev.TakesAction k r head rest a) (hv : validAction k head = false) :
    Closes (actionCommand r (some k)) s ((s.dev.takeHead r a head rest).answer a .badrec 0) := by
  have hv' := ne_true_of_eq_false hv
  cases k with
  | note => exact closes_note ht (if_neg hv')
  | keepalive => exact closes_keepalive ht (if_neg hv')
  | set | clear | pulse | delaySet | delayClear | blink => exact closes_output ht rfl (if_neg hv')

/-- A record whose KIND names no kind of its ring's class is answered BADREC (R179, R192). -/
theorem closes_unknownKind (ht : s.dev.Takes r head rest a)
    (hk : if r = 0 then adminKindOf head = none else actionKindOf head = none) :
    Closes (.unknownKind r) s ((s.dev.takeHead r a head rest).answer a .badrec 0) := by
  refine closes_taking rfl ht ?_ rfl
  unfold isUnknownKind
  split at hk <;> simp_all

/-- Settles O16: the bytes validation accepts, the KIND codes and the fields, then the two takings answered BADREC. -/
theorem malformedRecordsAnswerBadrec : Obligations.MalformedRecordsAnswerBadrec := by
  refine ⟨validAction_iff, actionKindOf_iff, fun r => ⟨rfl, rfl, rfl, rfl, fun h => ?_, rfl, fun h => ?_⟩,
    fun s k r head rest a => closes_invalid, fun s r head rest a => closes_unknownKind⟩
  · exact Nat.mod_eq_of_lt (by omega)
  · exact Nat.mod_eq_of_lt (by omega)

/-! ## Refused records -/

/-- A deadline given in the event that answers its owner leaves no trace (R69). -/
theorem answer_addDeadline (st : Status) (x : Word) :
    ((d.takeHead r a head rest).addDeadline a head).answer a st x = (d.takeHead r a head rest).answer a st x := by
  rw [← answer_withdraw _ takeHead_addDeadline_slot, withdraw_addDeadline, answer_withdraw _ (takeHead_slot ..)]

/-- The zone check's refusal is the answer (R32). -/
theorem intakeOutput_zoneRefused {st : Status} (hv : validAction k head = true)
    (hz : d.zoneRefusal r (isOnEffect k) (pointOf head) = some st) :
    Device.intakeOutput k r a head (d.takeHead r a head rest) = (d.takeHead r a head rest).answer a st 0 := by
  unfold Device.intakeOutput
  rw [if_pos hv, takeHead_zoneRefusal, hz]

/-- A granted record without a trigger whose action stage ends in an answer. -/
theorem closes_refused {st : Status} {x : Word} (ht : s.dev.TakesAction k r head rest a) (ho : isOutputKind k = true)
    (hg : s.dev.Grants k r head) (htrig : trigOf head = false)
    (hstage : ((s.dev.takeHead r a head rest).addDeadline a head).actionStage a =
      ((s.dev.takeHead r a head rest).addDeadline a head).answer a st x) :
    Closes (actionCommand r (some k)) s ((s.dev.takeHead r a head rest).answer a st x) :=
  closes_output ht ho (by rw [intakeOutput_granted hg htrig, hstage, answer_addDeadline])

/-- Settles O18: the zone check's answer, and the three refusals of the action stage. -/
theorem refusedActionsTouchNothing : Obligations.RefusedActionsTouchNothing := by
  intro s k r head rest a ht ho hv
  refine ⟨fun st hz => closes_output ht ho (intakeOutput_zoneRefused hv hz), fun hz htrig => ?_⟩
  have hpoints : ((s.dev.takeHead r a head rest).addDeadline a head).points = s.dev.points :=
    Device.addDeadline_points _ _ _
  refine ⟨fun hp => ?_, fun hp hon hgate hw => ?_, fun hp hc hs => ?_⟩ <;>
    refine closes_refused ht ho ⟨hv, hz⟩ htrig ?_
  · exact actionStage_faulted _ takeHead_addDeadline_slot (by rw [hpoints]; exact hp)
  · rw [actionStage_gated _ takeHead_addDeadline_slot (k := k) ht.2.2 (by rw [hpoints]; exact hp) hon
      (by rw [hpoints, addDeadline_gateOpen]; exact hgate) hw, hpoints]
    rfl
  · obtain ⟨b, hclaim⟩ := Option.ne_none_iff_exists'.mp hc
    rw [taken_claimCheck ht.2.2 hp, claimCheck_claimed (b := b)]
    · exact if_neg (ne_true_of_eq_false hs)
    · rw [hpoints]; exact hclaim

/-! ## Trigger waits -/

/-- An entry enters TRIGGER_WAIT at the end of its input's trigger waits (R35, R36, R107). -/
theorem enterTriggerWait_eq {e : Entry} (he : d.slots[a] = some e) (record : RawRecord) :
    d.enterTriggerWait a record =
      { d with
        slots := d.slots.set a (some { e with st := .triggerWait })
        inputs := d.inputs.set (trigInOf record)
          { d.inputs[trigInOf record] with waits := d.inputs[trigInOf record].waits ++ [a] } } := by
  rw [Device.enterTriggerWait, Device.setEntryState, he]
  rfl

/-- A granted record with TRIG is given its deadline and waits (R31, R36). -/
theorem intakeOutput_triggered (hg : d.Grants k r head) (htrig : trigOf head = true) :
    Device.intakeOutput k r a head (d.takeHead r a head rest) =
      ((d.takeHead r a head rest).addDeadline a head).enterTriggerWait a head := by
  unfold Device.intakeOutput
  rw [if_pos hg.1, takeHead_zoneRefusal, hg.2]
  simp only [htrig, if_true]

/-- The block with the taken record in TRIGGER_WAIT, its deadline given. -/
theorem taken_triggerWait :
    ((d.takeHead r a head rest).addDeadline a head).enterTriggerWait a head =
      { d.takeHead r a head rest with
        slots := d.slots.set a (some (d.entryOf r head .triggerWait))
        inputs := d.inputs.set (trigInOf head)
          { d.inputs[trigInOf head] with waits := d.inputs[trigInOf head].waits ++ [a] }
        timing :=
          if halfAt head 12 = 0 then d.timing
          else insertTimer ⟨a, .deadline, d.now + limitOf head⟩ d.timing } := by
  rw [enterTriggerWait_eq takeHead_addDeadline_slot, addDeadline_eq, addDeadline_timing]
  simp [Device.entryOf]

/-- Settles O23: a NOTE and a granted record with TRIG come to the same wait. -/
theorem triggerWaits : Obligations.TriggerWaits := by
  intro s k r head rest a ht hwaits
  obtain ⟨rfl, hv⟩ | ⟨ho, hg, htrig⟩ := hwaits
  · exact closes_note ht ((if_pos hv).trans taken_triggerWait)
  · exact closes_output ht ho ((intakeOutput_triggered hg htrig).trans taken_triggerWait)

/-! ## KEEPALIVE -/

/-- In OK a KEEPALIVE restarts the countdown at the full interval and keeps SUPV (R128). -/
theorem armCountdown_of_ok (h : d.sup.supv = .ok) :
    d.armCountdown .ok =
      { d with
        sup := { d.sup with countdown := some (d.now + BitVec.ofNat 32 (d.sup.interval.toNat * 100)) } } := by
  rw [Device.armCountdown, ← h]
  rfl

/-- Settles O24, by the supervision state. -/
theorem keepaliveAnswers : Obligations.KeepaliveAnswers := by
  intro s r head rest a ht hv
  refine ⟨fun h => closes_keepalive ht ?_, fun h => closes_keepalive ht ?_, fun h => closes_keepalive ht ?_⟩ <;>
    rw [Device.intakeKeepalive, if_pos hv, Device.takeHead_sup, h]
  exact congrArg (Device.answer · a .done 0) (armCountdown_of_ok (d := s.dev.takeHead r a head rest) h)

end Sys2Proof.Machine
end

section
/-! The taking of a record (O13, O14): its conditions, the slot it fills, and what it does beside its intake. -/

namespace Sys2Proof.Machine

variable {d : Device} {r : RingId} {a : Slot}

/-- Settles O14: a taking is its two updates, and a drive is the update of its point unless the level is there. -/
theorem takenRecordAndDrivenLevel : Obligations.TakenRecordAndDrivenLevel := by
  refine ⟨fun _ _ _ _ _ => rfl, fun d p l => ?_⟩
  by_cases hl : d.points[p].level = l
  · rw [if_pos hl, (driveLevel_point d p l).2.2 hl]
  · rw [if_neg hl, Device.driveLevel, Point.drive, if_neg hl]
    simp [Device.setPoint, settleTicks]

/-! ## The lowest free slot -/

/-- In a list in ascending order the first element that passes a test is the least that does. -/
theorem find?_eq_some_iff_least {l : List Slot} (hl : l.Pairwise (· < ·)) {p : Slot → Bool} :
    l.find? p = some a ↔ a ∈ l ∧ p a = true ∧ ∀ b ∈ l, b < a → p b = false := by
  induction l with
  | nil => simp
  | cons c l ih =>
    obtain ⟨hc, hl⟩ := List.pairwise_cons.mp hl
    cases hp : p c with
    | true =>
      rw [List.find?_cons_of_pos hp, Option.some.injEq]
      refine ⟨fun h => ?_, fun ⟨ha, _, hleast⟩ => ?_⟩
      · subst h
        refine ⟨List.mem_cons_self, hp, fun b hb hlt => ?_⟩
        obtain rfl | hb := List.mem_cons.mp hb
        · exact absurd hlt (lt_irrefl _)
        · exact absurd (hc b hb) hlt.asymm
      · obtain rfl | ha := List.mem_cons.mp ha
        · rfl
        · exact absurd ((hleast c List.mem_cons_self (hc a ha)).symm.trans hp) Bool.false_ne_true
    | false =>
      rw [List.find?_cons_of_neg (ne_true_of_eq_false hp), ih hl]
      have hne (h : p a = true) : a ≠ c := fun hac => Bool.false_ne_true (hp.symm.trans (hac ▸ h))
      simp only [List.mem_cons, forall_eq_or_imp, hp, implies_true, true_and]
      exact ⟨fun ⟨ha, hpa, hleast⟩ => ⟨.inr ha, hpa, hleast⟩,
        fun ⟨ha, hpa, hleast⟩ => ⟨ha.resolve_left (hne hpa), hpa, hleast⟩⟩

/-- A slot belongs to the pool of ring `r` (R44). -/
theorem mem_poolSlots : a ∈ poolSlots r ↔ (r = 0 ↔ 60 ≤ a.val) := by
  by_cases hr : r = 0
  · subst hr
    simp [mem_poolSlots_admin]
  · rw [show poolSlots r = poolSlots 1 from if_neg hr, mem_poolSlots_action]
    simp [hr]

theorem poolSlots_ascending (r : RingId) : (poolSlots r).Pairwise (· < ·) := by
  unfold poolSlots
  split
  · exact (List.pairwise_lt_finRange 64).drop
  · exact (List.pairwise_lt_finRange 64).take

/-- The lowest-numbered free slot of a ring's pool (R44). -/
theorem lowestFree_eq_some_iff :
    d.lowestFree r = some a ↔
      (r = 0 ↔ 60 ≤ a.val) ∧ d.slots[a] = none ∧
        ∀ b : Slot, b.val < a.val → (r = 0 → 60 ≤ b.val) → d.slots[b] ≠ none := by
  rw [Device.lowestFree, find?_eq_some_iff_least (poolSlots_ascending r), mem_poolSlots, Option.isNone_iff_eq_none]
  refine and_congr_right fun hpool => and_congr_right fun _ => forall_congr' fun b => ?_
  rw [mem_poolSlots, Option.isNone_eq_false_iff, Option.isSome_iff_ne_none]
  refine ⟨fun h hlt hb => h ⟨hb, fun h60 => hpool.mpr (h60.trans hlt.le)⟩ hlt, fun h hb hlt => h hlt hb.mp⟩

/-! ## The conditions of R53 -/

/-- No admin operation is active: no entry of ring 0's pool is ADMIN_ACTIVE (R46, R57). -/
theorem adminActive?_isNone_iff :
    d.adminActive?.isNone = true ↔
      ∀ (b : Slot) (e : Entry), 60 ≤ b.val → d.slots[b] = some e → e.st ≠ .adminActive := by
  rw [Option.isNone_iff_eq_none, Device.adminActive?, List.find?_eq_none]
  refine forall_congr' fun b => ?_
  rw [mem_poolSlots_admin]
  cases d.slots[b] with
  | none => simp [isAdminActive]
  | some e => simp [isAdminActive]

theorem taken?_eq_some_iff {head : RawRecord} {rest : List RawRecord} :
    d.taken? r = some (head, rest, a) ↔
      d.rings[r].buf = head :: rest ∧ d.lowestFree r = some a ∧ d.ringMayTake r head = true := by
  unfold Device.taken?
  split
  next head' rest' a' hbuf hfree =>
    rw [hbuf, hfree]
    split
    next hm =>
      simp only [Option.some.injEq, Prod.mk.injEq, List.cons.injEq]
      refine ⟨fun ⟨hh, hr, ha⟩ => ⟨⟨hh, hr⟩, ha, hh ▸ hm⟩, fun ⟨⟨hh, hr⟩, ha, _⟩ => ⟨hh, hr, ha⟩⟩
    next hm =>
      simp only [reduceCtorEq, false_iff, List.cons.injEq]
      rintro ⟨⟨rfl, -⟩, -, h⟩
      exact hm h
  next hnone =>
    simp only [reduceCtorEq, false_iff]
    rintro ⟨hbuf, hfree, -⟩
    exact hnone _ _ _ hbuf hfree

/-! ## A ring that stalls -/

/-- Where no record can be taken a taking does nothing (R54, log 4). -/
theorem taking_stalled (h : d.taken? r = none) (isKind : RawRecord → Bool)
    (intake : Slot → RawRecord → Device → Device) : d.taking r isKind intake = d := by
  rw [Device.taking, h]

/-- The taking command of a ring's head record is a taking of that ring. -/
theorem exec_takingCommand (s : State) (r : RingId) (head : RawRecord) :
    ∃ isKind intake, exec (takingCommand r head) s = .next { s with dev := s.dev.taking r isKind intake } := by
  unfold takingCommand
  split
  next hr =>
    subst hr
    cases adminKindOf head with
    | none => exact ⟨_, _, rfl⟩
    | some k => cases k <;> exact ⟨_, _, rfl⟩
  · cases actionKindOf head with
    | none => exact ⟨_, _, rfl⟩
    | some k => cases k <;> exact ⟨_, _, rfl⟩

/-- Settles O13: the conditions of R53 for an action ring and for ring 0, and the stalled command. -/
theorem takingConditions : Obligations.TakingConditions := by
  refine ⟨fun d r head rest a => ?_, fun s r head rest _ hnone => ?_⟩
  · rw [taken?_eq_some_iff, lowestFree_eq_some_iff]
    refine and_congr_right fun _ => ?_
    unfold Device.ringMayTake Device.takeState
    by_cases hr : r = 0
    · subst hr
      simp only [if_true, Bool.and_eq_true, Bool.or_eq_true, beq_iff_eq, adminActive?_isNone_iff, true_iff, ne_eq,
        not_true_eq_false, false_implies, true_and, forall_const]
      tauto
    · simp only [hr, if_false, Bool.and_eq_true, Bool.or_eq_true, beq_iff_eq, Bool.not_eq_true', decide_eq_true_eq,
        false_iff, not_le, ne_eq, not_false_eq_true, false_implies, true_and, forall_const]
      cases fenceOf head <;> simp <;> tauto
  · obtain ⟨isKind, intake, hexec⟩ := exec_takingCommand s r head
    rw [hexec, taking_stalled hnone]

end Sys2Proof.Machine
end

section
/-! The ends of the drain and of a ring reset, as commands of their own (O33, O36). -/

namespace Sys2Proof.Machine

variable {s : State} {d : Device} {a : Slot} {e : Entry}

/-- The end of the operation of kind `k` that is active looks for its condition (R50). -/
theorem closes_endOps {c : Instr} {k : AdminKind} {x : Device}
    (hc : exec c s = .next { s with dev := if s.dev.adminOp k then s.dev.event Device.endOps else s.dev })
    (ha : s.dev.adminActive? = some a) (he : s.dev.slots[a] = some e) (hk : adminKindOf e.record = some k)
    (hx : s.dev.endOps = x) : Closes c s x := by
  refine closes_event (f := Device.endOps) ?_ hx
  have hop : s.dev.adminOp k = true := by
    unfold Device.adminOp
    rw [ha]
    dsimp only
    rw [he]
    simp [isAdminKind, hk]
  rw [hc, hop, if_pos rfl]

/-- An active ENTER_CONFIGURE waits for the end of its drain (R50, R182). -/
theorem endOps_enterConfigure (ha : d.adminActive? = some a) (he : d.slots[a] = some e)
    (hk : adminKindOf e.record = some .enterConfigure) : d.endOps = d.endDrain a := by
  unfold Device.endOps
  rw [ha]
  dsimp only
  rw [he]
  dsimp only
  rw [hk]

/-- An active RING_RESET waits for the end of its reset (R50, R151). -/
theorem endOps_ringReset (ha : d.adminActive? = some a) (he : d.slots[a] = some e)
    (hk : adminKindOf e.record = some .ringReset) : d.endOps = d.endReset a e.record := by
  unfold Device.endOps
  rw [ha]
  dsimp only
  rw [he]
  dsimp only
  rw [hk]

/-- Settles O33, by whether an action entry remains. -/
theorem drainEnds : Obligations.DrainEnds := by
  intro s a e ha he hk hd
  refine ⟨fun hempty => closes_endOps rfl ha he hk ?_, fun ⟨b, hb, hheld⟩ => closes_endOps rfl ha he hk ?_⟩
  · rw [endOps_enterConfigure ha he hk, Device.endDrain, hd, (actionPoolEmpty_iff s.dev).mpr hempty]
    rfl
  · have hnot : s.dev.actionPoolEmpty = false :=
      Bool.eq_false_iff.mpr fun h => hheld ((actionPoolEmpty_iff s.dev).mp h b hb)
    rw [endOps_enterConfigure ha he hk, Device.endDrain, hnot, Bool.and_false, if_neg Bool.false_ne_true]

/-- The ring in byte 4 of a record, read as a number. -/
theorem ringNumberOf_eq {record : RawRecord} {r : RingId} (h : r.val = (byteAt record 4).toNat) :
    ringNumberOf record = r :=
  Fin.ext (by simp only [ringNumberOf, Fin.val_ofNat]; omega)

/-- The end of a ring reset whose ring holds no entry (R151). -/
theorem endReset_empty {record : RawRecord} {r : RingId} (hr : ringNumberOf record = r)
    (hs : d.rings[r].state = .resetting) (hh : d.held r = 0) {st : RingState}
    (hst : resetEndState (disableOf record) ((d.cring d.rings[r].bound).state == .faulted) = st) :
    d.endReset a record =
      (if st = .faulted then
        (d.setRing r
          { d.rings[r] with tail := 0, producer := 0, state := .faulted, cause := .cqflt }).raiseAlert (alertRingflt r)
      else d.setRing r { d.rings[r] with tail := 0, producer := 0, state := st, cause := .none }).answer a .done 0 := by
  subst hr
  unfold Device.endReset
  dsimp only
  rw [hs, hh, hst]
  by_cases hf : st = .faulted <;> simp [hf]

/-- Settles O36, by whether the ring holds an entry and by the state its reset ends in. -/
theorem ringResetEnds : Obligations.RingResetEnds := by
  intro s a e r ha he hk _ hr hs
  have hring := ringNumberOf_eq hr
  have closes {x : Device} (hx : s.dev.endReset a e.record = x) : Closes .ringResetEnd s x :=
    closes_endOps rfl ha he hk ((endOps_ringReset ha he hk).trans hx)
  refine ⟨fun hh hdis => closes ?_, fun hh hdis hb => closes ?_, fun hh hdis hb => closes ?_, fun hh => closes ?_⟩
  · rw [endReset_empty hring hs hh (st := .disabled) (by simp [resetEndState, disableOf, hdis])]
    rfl
  · rw [endReset_empty hring hs hh (st := .active) (by simpa [resetEndState, disableOf, hdis] using hb)]
    rfl
  · rw [endReset_empty hring hs hh (st := .faulted) (by simpa [resetEndState, disableOf, hdis] using hb)]
    rfl
  · subst hring
    simp [Device.endReset, hh]

end Sys2Proof.Machine
end

section
/-! The ties of the Outstanding Table as one condition, and what the operations on a single entry need to keep it
(O58). -/

namespace Sys2Proof.Machine

/-! ## The ties -/

/-- Timing List entry `t` may belong to entry `e`: an OUTPUT_TIMER to a TIMED one, a DEADLINE to a waiting one, and
within a taking event to the entry of the slot `x` being taken (R33, R66). -/
def TimerFits (x : Option Slot) (t : TimerEntry) (e : Entry) : Prop :=
  t.kind = .outputTimer ∧ (∃ b, e.st = .timed b) ∨
    t.kind = .deadline ∧ (e.st = .triggerWait ∨ e.st = .gateWait ∨ e.st = .intake ∧ x = some t.owner)

/-- Claims, timers, waits and queues agree with the entries, a FAULTED point is OFF and unclaimed, and no entry waits
for a gate outside RUN. Between events `x` is `none`; within a taking event it is the slot being taken. -/
structure Device.Tied (x : Option Slot) (d : Device) : Prop where
  claims : d.ClaimsTied
  faulted : d.FaultedOff
  owners : (d.timing.map TimerEntry.owner).Nodup
  timers : ∀ t ∈ d.timing, ∃ e : Entry, d.slots[t.owner] = some e ∧ TimerFits x t e
  timed : ∀ (a : Slot) (e : Entry) (b : Option Blink), d.slots[a] = some e → e.st = .timed b →
    a.val < 60 ∧ timedKind e.record b = true ∧ ∃ t ∈ d.timing, t.owner = a
  waits : d.WaitsTied
  queues : d.QueuesTied
  quiet : d.dstate ≠ .run → ∀ k : Fin 7, d.groups[k].waits = []

theorem tied_iff {d : Device} :
    d.Tied none ↔ d.ClaimsTied ∧ d.FaultedOff ∧ d.TimersTied ∧ d.WaitsTied ∧ d.QueuesTied ∧
      (d.dstate ≠ .run → ∀ k : Fin 7, d.groups[k].waits = []) := by
  constructor
  · rintro ⟨hclaims, hfaulted, howners, htimers, htimed, hwaits, hqueues, hquiet⟩
    exact ⟨hclaims, hfaulted, ⟨howners, by simpa [TimerFits] using htimers, htimed⟩, hwaits, hqueues, hquiet⟩
  · rintro ⟨hclaims, hfaulted, ⟨howners, htimers, htimed⟩, hwaits, hqueues, hquiet⟩
    exact ⟨hclaims, hfaulted, howners, by simpa [TimerFits] using htimers, htimed, hwaits, hqueues, hquiet⟩

variable {d d' : Device} {x : Option Slot} {a : Slot}

/-- A slot that holds no TIMED entry. -/
def NotTimed (o : Option Entry) : Prop := ∀ (e : Entry) (b : Option Blink), o = some e → e.st ≠ .timed b

theorem notTimed_none : NotTimed none := fun _ _ h => by cases h

theorem notTimed_some {e : Entry} (h : ∀ b, e.st ≠ .timed b) : NotTimed (some e) := fun _ b he => by
  cases he
  exact h b

/-- No wait list and no trigger waits name slot `a`. -/
def Device.Unlisted (d : Device) (a : Slot) : Prop :=
  (∀ k : Fin 7, a ∉ d.groups[k].waits) ∧ ∀ i : InputId, a ∉ d.inputs[i].waits

/-- Nothing but the Timing List may name slot `a`. -/
structure Device.Loose (d : Device) (a : Slot) : Prop where
  notTimed : NotTimed d.slots[a]
  unlisted : d.Unlisted a
  unqueued : a ∉ d.c0.queue ++ d.c1.queue

/-- The slots after one is set. -/
theorem setSlot_slot (d : Device) (a b : Slot) (v : Option Entry) :
    (d.setSlot a v).slots[b] = if b = a then v else d.slots[b] := by
  by_cases h : b = a
  · subst h
    simp
  · simp [h, Fin.val_inj, Ne.symm h]

theorem setPoint_point (d : Device) (p q : PointId) (v : Point) :
    (d.setPoint p v).points[q] = if q = p then v else d.points[q] := by
  by_cases h : q = p
  · subst h
    simp
  · simp [h, Fin.val_inj, Ne.symm h]

theorem setGroup_group (d : Device) (k j : Fin 7) (v : Group) :
    (d.setGroup k v).groups[j] = if j = k then v else d.groups[j] := by
  by_cases h : j = k
  · subst h
    simp
  · simp [h, Fin.val_inj, Ne.symm h]

theorem setInput_input (d : Device) (i j : InputId) (v : Input) :
    (d.setInput i v).inputs[j] = if j = i then v else d.inputs[j] := by
  by_cases h : j = i
  · subst h
    simp
  · simp [h, Fin.val_inj, Ne.symm h]

@[simp] theorem setSlot_setSlot (d : Device) (a : Slot) (u v : Option Entry) :
    (d.setSlot a u).setSlot a v = d.setSlot a v := by
  simp [Device.setSlot]

/-! ## What the ties say of one slot -/

/-- Only a TIMED entry claims a point. -/
theorem Device.Tied.claim_ne (h : d.Tied x) (hn : NotTimed d.slots[a]) (p : PointId) : d.points[p].claim ≠ some a :=
  fun hc => by
    obtain ⟨e, b, he, hst, -⟩ := (h.claims p a).mp hc
    exact hn e b he hst

/-- Only an answered entry is queued. -/
theorem Device.Tied.unqueued (h : d.Tied x) (hn : ∀ e y, d.slots[a] = some e → e.st ≠ .answered y) :
    a ∉ d.c0.queue ++ d.c1.queue := fun hq => by
  obtain ⟨e, y, he, hst⟩ := h.queues.2 a hq
  exact hn e y he hst

/-- Only a waiting entry is listed. -/
theorem Device.Tied.unlisted (h : d.Tied x)
    (hn : ∀ e, d.slots[a] = some e → e.st ≠ .gateWait ∧ e.st ≠ .triggerWait) : d.Unlisted a := by
  refine ⟨fun k hk => ?_, fun i hi => ?_⟩
  · obtain ⟨-, e, he, hst, -⟩ := (h.waits.1 k).2 a hk
    exact (hn e he).1 hst
  · obtain ⟨-, e, he, hst, -⟩ := (h.waits.2 i).2 a hi
    exact (hn e he).2 hst

/-- A free slot is named by nothing. -/
theorem Device.Tied.loose_of_free (h : d.Tied x) (he : d.slots[a] = none) : d.Loose a where
  notTimed := by rw [he]; exact notTimed_none
  unlisted := h.unlisted fun e hs => by rw [he] at hs; cases hs
  unqueued := h.unqueued fun e y hs => by rw [he] at hs; cases hs

/-- A free slot owns no timer. -/
theorem Device.Tied.owner_ne_of_free (h : d.Tied x) (he : d.slots[a] = none) : ∀ t ∈ d.timing, t.owner ≠ a :=
  fun t ht ho => by
    subst ho
    obtain ⟨e, hs, -⟩ := h.timers t ht
    rw [he] at hs
    cases hs

/-- An entry that is being taken, or an active admin operation. -/
def Entry.Plain (e : Entry) : Prop := e.st = .intake ∨ e.st = .adminActive

theorem Device.Tied.loose_of_plain (h : d.Tied x) {e : Entry} (he : d.slots[a] = some e) (hp : e.Plain) :
    d.Loose a := by
  have hst (e' : Entry) (hs : d.slots[a] = some e') : e'.Plain := by
    obtain rfl := Option.some.inj (he.symm.trans hs)
    exact hp
  refine ⟨fun e' b hs ht => ?_, h.unlisted fun e' hs => ?_, h.unqueued fun e' y hs hq => ?_⟩
  · obtain hp | hp := hst e' hs <;> simp [ht] at hp
  · obtain hp | hp := hst e' hs <;> simp [hp]
  · obtain hp | hp := hst e' hs <;> simp [hq] at hp

/-! ## What is left when names go -/

/-- A point keeps its group and its claim, and is FAULTED in `v'` only OFF and unclaimed, or as it was in `v`. -/
def PointKept (v v' : Point) : Prop :=
  v'.group = v.group ∧ v'.claim = v.claim ∧
    (v'.pstate = .faulted →
      v'.level = false ∧ v'.claim = none ∨ v.pstate = .faulted ∧ (v'.level = true → v.level = true))

theorem PointKept.refl (v : Point) : PointKept v v := ⟨rfl, rfl, fun h => .inr ⟨h, id⟩⟩

/-- From `d` to `d'` no entry and no claim changes, and lists lose names at most. -/
structure Device.Shrinks (d d' : Device) : Prop where
  slots : d'.slots = d.slots
  timing : d'.timing = d.timing ∨ d'.timing = [] ∧ ∀ a : Slot, NotTimed d.slots[a]
  point : ∀ p : PointId, PointKept d.points[p] d'.points[p]
  gate : ∀ k : Fin 7, d'.groups[k].waits.Sublist d.groups[k].waits
  trigger : ∀ i : InputId, d'.inputs[i].waits.Sublist d.inputs[i].waits
  queue : (d'.c0.queue ++ d'.c1.queue).Sublist (d.c0.queue ++ d.c1.queue)
  run : d.dstate = .run → d'.dstate = .run ∨ ∀ k : Fin 7, d'.groups[k].waits = []

/-- A change of fields that the ties do not read is `{ Device.Shrinks.refl d with }`. -/
theorem Device.Shrinks.refl (d : Device) : d.Shrinks d :=
  ⟨rfl, .inl rfl, fun _ => .refl _, fun _ => .refl _, fun _ => .refl _, .refl _, .inl⟩

theorem Device.Tied.shrink (h : d.Tied x) (hs : d.Shrinks d') : d'.Tied x where
  claims p a := by rw [(hs.point p).2.1, hs.slots]; exact h.claims p a
  faulted p hp := by
    obtain ⟨-, hclaim, hoff⟩ := hs.point p
    obtain hoff | ⟨hpstate, hlevel⟩ := hoff hp
    · exact hoff
    obtain ⟨hl, hc⟩ := h.faulted p hpstate
    exact ⟨Bool.eq_false_iff.mpr fun ht => Bool.false_ne_true (hl.symm.trans (hlevel ht)), hclaim.trans hc⟩
  owners := by
    obtain ht | ⟨ht, -⟩ := hs.timing <;> rw [ht]
    · exact h.owners
    · exact List.nodup_nil
  timers t ht := by
    rw [hs.slots]
    obtain hl | ⟨hl, -⟩ := hs.timing <;> rw [hl] at ht
    · exact h.timers t ht
    · cases ht
  timed a e b he hst := by
    rw [hs.slots] at he
    obtain hl | ⟨-, hn⟩ := hs.timing
    · rw [hl]
      exact h.timed a e b he hst
    · exact absurd hst (hn a e b he)
  waits := by
    refine ⟨fun k => ⟨(hs.gate k).nodup (h.waits.1 k).1, fun a ha => ?_⟩,
      fun i => ⟨(hs.trigger i).nodup (h.waits.2 i).1, fun a ha => ?_⟩⟩
    · obtain ⟨h60, e, he, hst, hg⟩ := (h.waits.1 k).2 a ((hs.gate k).subset ha)
      exact ⟨h60, e, by rw [hs.slots, he], hst, (hs.point _).1.trans hg⟩
    · obtain ⟨h60, e, he, hst, hg⟩ := (h.waits.2 i).2 a ((hs.trigger i).subset ha)
      exact ⟨h60, e, by rw [hs.slots, he], hst, hg⟩
  queues := ⟨hs.queue.nodup h.queues.1, fun a ha => by rw [hs.slots]; exact h.queues.2 a (hs.queue.subset ha)⟩
  quiet hd k := by
    by_cases hrun : d.dstate = .run
    · exact (hs.run hrun).resolve_left hd k
    · exact List.sublist_nil.mp (h.quiet hrun k ▸ hs.gate k)

/-- A block without entries, claims, timers, waits and queues. -/
theorem tied_of_empty (hslots : ∀ a : Slot, d.slots[a] = none)
    (hpoint : ∀ p : PointId, d.points[p].level = false ∧ d.points[p].claim = none) (htiming : d.timing = [])
    (hgate : ∀ k : Fin 7, d.groups[k].waits = []) (htrigger : ∀ i : InputId, d.inputs[i].waits = [])
    (hqueue : d.c0.queue = [] ∧ d.c1.queue = []) : d.Tied x where
  claims p a := by simp only [hslots, (hpoint p).2]; simp
  faulted p _ := hpoint p
  owners := by rw [htiming]; exact List.nodup_nil
  timers t ht := by rw [htiming] at ht; cases ht
  timed a e b he := by rw [hslots] at he; cases he
  waits := ⟨fun k => by rw [hgate]; exact ⟨List.nodup_nil, fun a ha => by cases ha⟩,
    fun i => by rw [htrigger]; exact ⟨List.nodup_nil, fun a ha => by cases ha⟩⟩
  queues := by
    rw [Device.QueuesTied, hqueue.1, hqueue.2]
    exact ⟨List.nodup_nil, fun a ha => by cases ha⟩
  quiet _ := hgate

/-- The timers without those of one slot name every other slot as before. -/
theorem mem_withdraw {t : TimerEntry} : t ∈ (d.withdraw a).timing ↔ t ∈ d.timing ∧ t.owner ≠ a := by
  simp [Device.withdraw]

/-- The timers of a slot without a TIMED entry can go (R69). -/
theorem Device.Tied.withdraw (h : d.Tied x) (hn : NotTimed d.slots[a]) : (d.withdraw a).Tied x where
  claims := h.claims
  faulted := h.faulted
  owners := (List.filter_sublist.map _).nodup h.owners
  timers t ht := h.timers t (mem_withdraw.mp ht).1
  timed b e blink he hst := by
    obtain ⟨h60, hk, t, ht, ho⟩ := h.timed b e blink he hst
    refine ⟨h60, hk, t, mem_withdraw.mpr ⟨ht, fun hta => ?_⟩, ho⟩
    obtain rfl := ho.symm.trans hta
    exact hn e blink he hst
  waits := h.waits
  queues := h.queues
  quiet := h.quiet

/-! ## One slot set -/

/-- A slot that nothing but its own timer names may hold any entry that is not TIMED and that its timer fits. -/
theorem Device.Tied.setSlot (h : d.Tied x) (hl : d.Loose a) {v : Option Entry} (hv : NotTimed v)
    (ht : ∀ t ∈ d.timing, t.owner = a → ∃ e, v = some e ∧ TimerFits x t e) : (d.setSlot a v).Tied x where
  claims p b := by
    rw [setSlot_slot]
    by_cases hb : b = a
    · subst hb
      rw [if_pos rfl]
      refine ⟨fun hc => absurd hc (h.claim_ne hl.notTimed p), ?_⟩
      rintro ⟨e, blink, he, hst, -⟩
      exact absurd hst (hv e blink he)
    · rw [if_neg hb]
      exact h.claims p b
  faulted := h.faulted
  owners := h.owners
  timers t htm := by
    rw [setSlot_slot]
    by_cases hb : t.owner = a
    · rw [if_pos hb]
      exact ht t htm hb
    · rw [if_neg hb]
      exact h.timers t htm
  timed b e blink he hst := by
    rw [setSlot_slot] at he
    split at he
    · exact absurd hst (hv e blink he)
    · exact h.timed b e blink he hst
  waits := by
    refine ⟨fun k => ⟨(h.waits.1 k).1, fun b hb => ?_⟩, fun i => ⟨(h.waits.2 i).1, fun b hb => ?_⟩⟩
    · rw [setSlot_slot, if_neg fun hba : b = a => hl.unlisted.1 k (hba ▸ hb)]
      exact (h.waits.1 k).2 b hb
    · rw [setSlot_slot, if_neg fun hba : b = a => hl.unlisted.2 i (hba ▸ hb)]
      exact (h.waits.2 i).2 b hb
  queues := ⟨h.queues.1, fun b hb => by
    rw [setSlot_slot, if_neg fun hba : b = a => hl.unqueued (hba ▸ hb)]
    exact h.queues.2 b hb⟩
  quiet := h.quiet

/-- The entry of a slot goes, with the timer it owns. -/
theorem Device.Tied.cut (h : d.Tied x) (hl : d.Loose a) : ((d.withdraw a).setSlot a none).Tied x :=
  (h.withdraw hl.notTimed).setSlot ⟨hl.notTimed, hl.unlisted, hl.unqueued⟩ notTimed_none
    fun _ ht ho => absurd ho (mem_withdraw.mp ht).2

/-- A TIMED entry goes, with its timer and the claim on its point. -/
theorem Device.Tied.cutClaim (h : d.Tied x) {p : PointId} (hc : d.points[p].claim = some a) {v : Point}
    (hv : v.claim = none) (hg : v.group = d.points[p].group) (hoff : v.pstate = .faulted → v.level = false) :
    (((d.setPoint p v).withdraw a).setSlot a none).Tied x := by
  obtain ⟨e, blink, he, hst, hp⟩ := (h.claims p a).mp hc
  have state_a (e' : Entry) (he' : d.slots[a] = some e') : e'.st = .timed blink := by
    obtain rfl := Option.some.inj (he.symm.trans he')
    exact hst
  have hunlisted : d.Unlisted a := h.unlisted fun e' he' => by simp [state_a e' he']
  have hunqueued : a ∉ d.c0.queue ++ d.c1.queue := h.unqueued fun e' y he' => by simp [state_a e' he']
  have slot (b : Slot) : (((d.setPoint p v).withdraw a).setSlot a none).slots[b] = if b = a then none else d.slots[b] :=
    setSlot_slot _ _ _ _
  have point (q : PointId) :
      (((d.setPoint p v).withdraw a).setSlot a none).points[q] = if q = p then v else d.points[q] :=
    setPoint_point _ _ _ _
  refine ⟨fun q b => ?_, fun q hq => ?_, (List.filter_sublist.map _).nodup h.owners, fun t ht => ?_,
    fun b e' blink' he' hst' => ?_, ⟨fun k => ⟨(h.waits.1 k).1, fun b hb => ?_⟩,
    fun i => ⟨(h.waits.2 i).1, fun b hb => ?_⟩⟩, ⟨h.queues.1, fun b hb => ?_⟩, h.quiet⟩
  · rw [slot, point]
    by_cases hb : b = a
    · subst hb
      rw [if_pos rfl]
      refine ⟨fun hq => ?_, by rintro ⟨e', blink', he', -⟩; cases he'⟩
      split at hq
      · rw [hv] at hq
        cases hq
      next hqp =>
        obtain ⟨e', -, he', -, hp'⟩ := (h.claims q b).mp hq
        obtain rfl := Option.some.inj (he.symm.trans he')
        exact absurd (hp'.symm.trans hp) hqp
    · rw [if_neg hb]
      split
      next hqp =>
        subst hqp
        rw [hv, ← h.claims q b, hc]
        simp [Ne.symm hb]
      · exact h.claims q b
  · rw [point] at hq ⊢
    split at hq
    next hqp => rw [if_pos hqp]; exact ⟨hoff hq, hv⟩
    next hqp => rw [if_neg hqp]; exact h.faulted q hq
  · obtain ⟨ht, ho⟩ := mem_withdraw.mp ht
    rw [slot, if_neg ho]
    exact h.timers t ht
  · rw [slot] at he'
    split at he'
    · cases he'
    next hb =>
      obtain ⟨h60, hk, t, ht, ho⟩ := h.timed b e' blink' he' hst'
      exact ⟨h60, hk, t, mem_withdraw.mpr ⟨ht, fun hta => hb (ho.symm.trans hta)⟩, ho⟩
  · have hba : b ≠ a := fun hba => hunlisted.1 k (hba ▸ hb)
    obtain ⟨h60, e', he', hst', hgroup⟩ := (h.waits.1 k).2 b hb
    refine ⟨h60, e', by rw [slot, if_neg hba, he'], hst', ?_⟩
    rw [point]
    split
    next hq => rw [hg, ← hq, hgroup]
    · exact hgroup
  · rw [slot, if_neg fun hba : b = a => hunlisted.2 i (hba ▸ hb)]
    exact (h.waits.2 i).2 b hb
  · rw [slot, if_neg fun hba : b = a => hunqueued (hba ▸ hb)]
    exact h.queues.2 b hb

/-! ## Answers -/

/-- An answered entry that no queue names joins one (R158). -/
theorem Device.Tied.pushAnswer (h : d.Tied x) {e : Entry} {y : Answer} (he : d.slots[a] = some e)
    (hst : e.st = .answered y) (hq : a ∉ d.c0.queue ++ d.c1.queue) (n : CRingId) : (d.pushAnswer n a).Tied x := by
  have hperm : ((d.pushAnswer n a).c0.queue ++ (d.pushAnswer n a).c1.queue).Perm (a :: (d.c0.queue ++ d.c1.queue)) := by
    cases n with
    | c0 =>
      change (d.c0.queue ++ [a] ++ d.c1.queue).Perm _
      rw [List.append_assoc]
      exact List.perm_middle
    | c1 =>
      change (d.c0.queue ++ (d.c1.queue ++ [a])).Perm _
      rw [← List.append_assoc]
      exact List.perm_append_singleton _ _
  have hqueues : (d.pushAnswer n a).QueuesTied := by
    refine ⟨hperm.nodup_iff.mpr (List.nodup_cons.mpr ⟨hq, h.queues.1⟩), fun b hb => ?_⟩
    rw [Device.pushAnswer_slots]
    obtain rfl | hb := List.mem_cons.mp (hperm.mem_iff.mp hb)
    · exact ⟨e, y, he, hst⟩
    · exact h.queues.2 b hb
  cases n <;>
    exact ⟨h.claims, h.faulted, h.owners, h.timers, h.timed, h.waits, hqueues, h.quiet⟩

/-- An answer keeps the ties when its entry could go (R42, R51). -/
theorem Device.Tied.answer_of_cut (h : ((d.withdraw a).setSlot a none).Tied x) {e : Entry} (he : d.slots[a] = some e)
    (st : Status) (z : Word) : (d.answer a st z).Tied x := by
  have hfree : ((d.withdraw a).setSlot a none).slots[a] = none := by rw [setSlot_slot, if_pos rfl]
  have hset := h.setSlot (h.loose_of_free hfree)
    (v := some { e with st := .answered ⟨st, z, d.now⟩ }) (notTimed_some fun b => by simp)
    fun t ht ho => absurd ho (h.owner_ne_of_free hfree t ht)
  rw [setSlot_setSlot] at hset
  unfold Device.answer
  rw [he]
  dsimp only
  split
  · exact h
  · exact hset.pushAnswer (by rw [setSlot_slot, if_pos rfl]) rfl (h.loose_of_free hfree).unqueued _

/-- An entry that nothing but the Timing List names is answered. -/
theorem Device.Tied.answer (h : d.Tied x) (hl : d.Loose a) (st : Status) (z : Word) : (d.answer a st z).Tied x := by
  cases he : d.slots[a] with
  | none => rwa [answer_none d he]
  | some e => exact (h.cut hl).answer_of_cut he st z

end Sys2Proof.Machine
end

section
/-! Timers and waits given, claims and entries cancelled (O58). -/

namespace Sys2Proof.Machine

variable {d d' : Device} {x : Option Slot} {a : Slot}

/-! ## Timers -/

theorem insertTimer_perm (t : TimerEntry) (l : List TimerEntry) : (insertTimer t l).Perm (t :: l) := by
  obtain ⟨front, back, hl, hi, -⟩ := insertTimer_split t l
  rw [hi, hl]
  exact List.perm_middle

/-- The owners stay distinct when a slot without a timer is given one. -/
theorem insertTimer_owners {t : TimerEntry} {l : List TimerEntry} (hl : (l.map TimerEntry.owner).Nodup)
    (ht : ∀ u ∈ l, u.owner ≠ t.owner) : ((insertTimer t l).map TimerEntry.owner).Nodup := by
  refine ((insertTimer_perm t l).map _).nodup_iff.mpr (List.nodup_cons.mpr ⟨fun hm => ?_, hl⟩)
  obtain ⟨u, hu, ho⟩ := List.mem_map.mp hm
  exact ht u hu ho

/-- A slot without a timer is given one that its entry admits (R33, R68). -/
theorem Device.Tied.addTimer (h : d.Tied x) {t : TimerEntry} {e : Entry} (he : d.slots[t.owner] = some e)
    (hf : TimerFits x t e) (hfree : ∀ u ∈ d.timing, u.owner ≠ t.owner) : (d.addTimer t).Tied x where
  claims := h.claims
  faulted := h.faulted
  owners := insertTimer_owners h.owners hfree
  timers u hu := by
    obtain rfl | hu := mem_insertTimer.mp hu
    · exact ⟨e, he, hf⟩
    · exact h.timers u hu
  timed b e blink he hst := by
    obtain ⟨h60, hk, u, hu, ho⟩ := h.timed b e blink he hst
    exact ⟨h60, hk, u, mem_insertTimer.mpr (.inr hu), ho⟩
  waits := h.waits
  queues := h.queues
  quiet := h.quiet

/-- A free slot of the action pool receives a TIMED entry, with the claim on its point and its OUTPUT_TIMER (R7,
R66). -/
theorem Device.Tied.begin (h : d.Tied x) (hfree : d.slots[a] = none) (h60 : a.val < 60) {e : Entry} {b : Option Blink}
    (hst : e.st = .timed b) (hk : timedKind e.record b = true) {p : PointId} (hp : pointOf e.record = p)
    (hc : d.points[p].claim = none) {v : Point} (hv : v.claim = some a) (hg : v.group = d.points[p].group)
    (hn : v.pstate ≠ .faulted) (due : Time) :
    (((d.setSlot a (some e)).setPoint p v).addTimer ⟨a, .outputTimer, due⟩).Tied x := by
  have hloose := h.loose_of_free hfree
  have slot (c : Slot) : (((d.setSlot a (some e)).setPoint p v).addTimer
      ⟨a, .outputTimer, due⟩).slots[c] = if c = a then some e else d.slots[c] := setSlot_slot _ _ _ _
  have point (q : PointId) : (((d.setSlot a (some e)).setPoint p v).addTimer
      ⟨a, .outputTimer, due⟩).points[q] = if q = p then v else d.points[q] := setPoint_point _ _ _ _
  refine ⟨fun q c => ?_, fun q hq => ?_, insertTimer_owners h.owners (h.owner_ne_of_free hfree), fun t ht => ?_,
    fun c e' blink he' hst' => ?_, ⟨fun k => ⟨(h.waits.1 k).1, fun c hcw => ?_⟩,
    fun i => ⟨(h.waits.2 i).1, fun c hcw => ?_⟩⟩, ⟨h.queues.1, fun c hcq => ?_⟩, h.quiet⟩
  · rw [slot, point]
    by_cases hca : c = a
    · subst hca
      rw [if_pos rfl]
      by_cases hq : q = p
      · rw [if_pos hq, hv]
        exact ⟨fun _ => ⟨e, b, rfl, hst, hp.trans hq.symm⟩, fun _ => rfl⟩
      · rw [if_neg hq]
        refine ⟨fun hclaim => absurd hclaim (h.claim_ne hloose.notTimed q), ?_⟩
        rintro ⟨e', -, he', -, hp'⟩
        obtain rfl := Option.some.inj he'
        exact absurd (hp'.symm.trans hp) hq
    · rw [if_neg hca]
      split
      next hq =>
        subst hq
        rw [hv, ← h.claims _ c, hc]
        simp [Ne.symm hca]
      · exact h.claims q c
  · rw [point] at hq ⊢
    split at hq
    · exact absurd hq hn
    next hqp => rw [if_neg hqp]; exact h.faulted q hq
  · rw [slot]
    obtain rfl | ht := mem_insertTimer.mp ht
    · exact ⟨e, if_pos rfl, .inl ⟨rfl, b, hst⟩⟩
    · rw [if_neg (h.owner_ne_of_free hfree t ht)]
      exact h.timers t ht
  · rw [slot] at he'
    split at he'
    next hca =>
      subst hca
      obtain rfl := Option.some.inj he'
      obtain rfl := EntryState.timed.inj (hst.symm.trans hst')
      exact ⟨h60, hk, _, mem_insertTimer.mpr (.inl rfl), rfl⟩
    · obtain ⟨hc60, hkind, t, ht, ho⟩ := h.timed c e' blink he' hst'
      exact ⟨hc60, hkind, t, mem_insertTimer.mpr (.inr ht), ho⟩
  · have hca : c ≠ a := fun hca => hloose.unlisted.1 k (hca ▸ hcw)
    obtain ⟨hc60, e', he', hst', hgroup⟩ := (h.waits.1 k).2 c hcw
    refine ⟨hc60, e', by rw [slot, if_neg hca, he'], hst', ?_⟩
    rw [point]
    split
    next hq => rw [hg, ← hq, hgroup]
    · exact hgroup
  · rw [slot, if_neg fun hca : c = a => hloose.unlisted.2 i (hca ▸ hcw)]
    exact (h.waits.2 i).2 c hcw
  · rw [slot, if_neg fun hca : c = a => hloose.unqueued (hca ▸ hcq)]
    exact h.queues.2 c hcq

/-- A timed kind begins at a NORMAL unclaimed point (R4, R7). -/
theorem Device.Tied.beginTimed (h : d.Tied x) (hl : d.Loose a) (h60 : a.val < 60) {entry e : Entry}
    (he : d.slots[a] = some entry) (hrec : entry.record = e.record) {b : Option Blink}
    (hk : timedKind e.record b = true) (hc : d.points[pointOf e.record].claim = none)
    (hn : d.points[pointOf e.record].pstate ≠ .faulted) : (d.beginTimed a e b).Tied x := by
  have hfree : ((d.withdraw a).setSlot a none).slots[a] = none := by rw [setSlot_slot, if_pos rfl]
  have hbegin := (h.cut hl).begin hfree h60 (e := { entry with st := .timed b }) rfl (by rw [hrec]; exact hk)
    (congrArg pointOf hrec) hc (v := { d.points[pointOf e.record] with claim := some a }) rfl rfl hn
    (d.now + durationOf e.record)
  rw [setSlot_setSlot] at hbegin
  rw [beginTimed_eq d he]
  exact hbegin

/-! ## Waits -/

/-- Every slot that leaves the lists keeps the ties of the others (R40). -/
theorem unwait_shrinks (d : Device) (a : Slot) : d.Shrinks (d.unwait a) where
  __ := Device.Shrinks.refl d
  gate k := by
    simp only [Device.unwait, Fin.getElem_fin, Vector.getElem_map]
    exact List.filter_sublist
  trigger i := by
    simp only [Device.unwait, Fin.getElem_fin, Vector.getElem_map]
    exact List.filter_sublist
  run := by exact .inl

theorem unwait_unlisted (d : Device) (a : Slot) : (d.unwait a).Unlisted a := by
  refine ⟨fun k => ?_, fun i => ?_⟩ <;> simp [Device.unwait]

/-- A GATE_WAIT entry of the action pool joins the wait list of its point's group (R93). -/
theorem Device.Tied.joinGate (h : d.Tied x) {e : Entry} (he : d.slots[a] = some e) (hst : e.st = .gateWait)
    (h60 : a.val < 60) (hu : d.Unlisted a) {g : Fin 8} (hg : d.points[pointOf e.record].group = g)
    (hrun : d.dstate = .run) : (d.joinGate g a).Tied x := by
  unfold Device.joinGate
  split
  · exact h
  next hg0 =>
    refine ⟨h.claims, h.faulted, h.owners, h.timers, h.timed, ⟨fun k => ?_, h.waits.2⟩, h.queues,
      fun hd => absurd hrun hd⟩
    rw [setGroup_group]
    split
    next hk =>
      subst hk
      refine ⟨List.nodup_append'.mpr ⟨(h.waits.1 _).1, List.nodup_singleton a, ?_⟩, fun b hb => ?_⟩
      · exact List.disjoint_singleton.mpr (hu.1 _)
      · obtain hb | hb := List.mem_append.mp hb
        · exact (h.waits.1 _).2 b hb
        · obtain rfl := List.mem_singleton.mp hb
          exact ⟨h60, e, he, hst, hg.trans (Fin.succ_pred g hg0).symm⟩
    · exact h.waits.1 k

/-- A TRIGGER_WAIT entry of the action pool joins the trigger waits of its input (R107). -/
theorem Device.Tied.joinTrigger (h : d.Tied x) {e : Entry} (he : d.slots[a] = some e) (hst : e.st = .triggerWait)
    (h60 : a.val < 60) (hu : d.Unlisted a) : (d.joinTrigger (trigInOf e.record) a).Tied x := by
  refine ⟨h.claims, h.faulted, h.owners, h.timers, h.timed, ⟨h.waits.1, fun i => ?_⟩, h.queues, h.quiet⟩
  rw [Device.joinTrigger, setInput_input]
  split
  next hi =>
    subst hi
    refine ⟨List.nodup_append'.mpr ⟨(h.waits.2 _).1, List.nodup_singleton a, ?_⟩, fun b hb => ?_⟩
    · exact List.disjoint_singleton.mpr (hu.2 _)
    · obtain hb | hb := List.mem_append.mp hb
      · exact (h.waits.2 _).2 b hb
      · obtain rfl := List.mem_singleton.mp hb
        exact ⟨h60, e, he, hst, rfl⟩
  · exact h.waits.2 i

/-! ## Points -/

/-- A point that is not FAULTED may be driven; any may be driven OFF (R18). -/
theorem driveLevel_shrinks {p : PointId} {l : Bool} (h : l = true → d.points[p].pstate ≠ .faulted) :
    d.Shrinks (d.driveLevel p l) where
  __ := Device.Shrinks.refl d
  point q := by
    obtain ⟨hg, -, -, hs, hl, hc, -⟩ := Point.drive_config d.points[p] d.now l
    rw [Device.driveLevel, setPoint_point]
    split
    next hq =>
      subst hq
      exact ⟨hg, hc, fun hf => .inr ⟨hs ▸ hf, fun ht => absurd (hs ▸ hf) (h (hl ▸ ht))⟩⟩
    · exact .refl _

theorem allOff_shrinks (d : Device) : d.Shrinks d.allOff where
  __ := Device.Shrinks.refl d
  point p := by
    obtain ⟨hg, -, -, hs, hl, hc, -⟩ := Point.drive_config d.points[p] d.now false
    have hp : d.allOff.points[p] = d.points[p].drive d.now false := by simp [Device.allOff]
    rw [hp]
    exact ⟨hg, hc, fun hf => .inr ⟨hs ▸ hf, fun ht => absurd (hl.symm.trans ht) Bool.false_ne_true⟩⟩

/-! ## Cancellations -/

/-- The claim on a point is cancelled with its entry answered (R8). -/
theorem Device.Tied.cancelClaim (h : d.Tied x) (p : PointId) (st : Status) : (d.cancelClaim p st).Tied x := by
  unfold Device.cancelClaim
  split
  · exact h
  next b hc =>
    obtain ⟨e, blink, he, -⟩ := (h.claims p b).mp hc
    exact (h.cutClaim hc (v := { d.points[p] with claim := none }) rfl rfl fun hf => (h.faulted p hf).1).answer_of_cut
      he st 0

/-- The cancellation of a claim leaves every entry that is not TIMED (R8). -/
theorem Device.Tied.cancelClaim_slot (h : d.Tied x) (p : PointId) (st : Status) (hn : NotTimed d.slots[a]) :
    (d.cancelClaim p st).slots[a] = d.slots[a] := by
  unfold Device.cancelClaim
  split
  · rfl
  next b hc =>
    rw [answer_slot_ne _ fun hab : a = b => h.claim_ne hn p (hab ▸ hc)]
    rfl

theorem cancelClaim_claim (d : Device) (p : PointId) (st : Status) : (d.cancelClaim p st).points[p].claim = none := by
  simp [cancelClaim_points]

/-- A live entry gives up its claim and its waits and is answered (R8, R40). -/
theorem Device.Tied.cancelEntry (h : d.Tied x) (a : Slot) (st : Status) : (d.cancelEntry a st).Tied x := by
  unfold Device.cancelEntry
  split
  · exact h
  next e he =>
    split
    next hlive =>
      have hwait := h.shrink (unwait_shrinks d a)
      by_cases hc : d.points[pointOf e.record].claim = some a
      · rw [if_pos hc]
        exact (hwait.cutClaim (p := pointOf e.record) hc (v := { d.points[pointOf e.record] with claim := none }) rfl
          rfl fun hf => (h.faulted _ hf).1).answer_of_cut he st 0
      · rw [if_neg hc]
        refine hwait.answer ⟨fun e' b he' hst => hc ((h.claims _ a).mpr ⟨e', b, he', hst, ?_⟩), unwait_unlisted d a,
          hwait.unqueued fun e' y he' hst => ?_⟩ st 0
        · rw [Option.some.inj (he.symm.trans he')]
        · obtain rfl := Option.some.inj (he.symm.trans he')
          simp [Entry.isLive, hst] at hlive
    · exact h

/-! ## Entries released from a wait -/

/-- A slot of the action pool that holds an entry being taken or taken out of its wait. -/
def Device.Ready (d : Device) (a : Slot) : Prop :=
  a.val < 60 ∧ d.Unlisted a ∧
    ∃ e : Entry, d.slots[a] = some e ∧ (e.st = .intake ∨ e.st = .triggerWait ∨ e.st = .gateWait)

theorem Device.Ready.notTimed (hr : d.Ready a) : NotTimed d.slots[a] := by
  obtain ⟨-, -, e, he, hst⟩ := hr
  rw [he]
  exact notTimed_some fun b hb => by obtain h | h | h := hst <;> simp [hb] at h

theorem Device.Tied.loose_of_ready (h : d.Tied x) (hr : d.Ready a) : d.Loose a where
  notTimed := hr.notTimed
  unlisted := hr.2.1
  unqueued := h.unqueued fun e y he hst => by
    obtain ⟨-, -, e', he', hst'⟩ := hr
    obtain rfl := Option.some.inj (he.symm.trans he')
    obtain h | h | h := hst' <;> simp [hst] at h

/-- What the release of the entry in slot `a`, from `d` to `d'`, leaves: the ties, and every other entry that is not
TIMED where it stood. -/
structure Released (x : Option Slot) (a : Slot) (d d' : Device) : Prop where
  tied : d'.Tied x
  dstate : d'.dstate = d.dstate
  slot : ∀ b : Slot, b ≠ a → NotTimed d.slots[b] → d'.slots[b] = d.slots[b]
  gate : ∀ (k : Fin 7) (b : Slot), b ∈ d'.groups[k].waits → b ∈ d.groups[k].waits ∨ b = a
  inputs : d'.inputs = d.inputs

theorem Released.refl (h : d.Tied x) : Released x a d d := ⟨h, rfl, fun _ _ _ => rfl, fun _ _ => .inl, rfl⟩

theorem Released.trans {d'' : Device} (h : Released x a d d') (h' : Released x a d' d'') : Released x a d d'' where
  tied := h'.tied
  dstate := h'.dstate.trans h.dstate
  slot b hb hn := by
    have hs := h.slot b hb hn
    exact (h'.slot b hb (by rw [hs]; exact hn)).trans hs
  gate k b hb := (h'.gate k b hb).elim (h.gate k b) .inr
  inputs := h'.inputs.trans h.inputs

/-- Another slot that is ready stays so. -/
theorem Released.ready (h : Released x a d d') {b : Slot} (hb : b ≠ a) (hr : d.Ready b) : d'.Ready b := by
  have hs := h.slot b hb hr.notTimed
  obtain ⟨h60, ⟨hgate, htrigger⟩, hheld⟩ := hr
  refine ⟨h60, ⟨fun k hk => (h.gate k b hk).elim (hgate k) hb, ?_⟩, by rw [hs]; exact hheld⟩
  rw [h.inputs]
  exact htrigger

theorem Device.Tied.released_answer (h : d.Tied x) (hl : d.Loose a) (st : Status) (z : Word) :
    Released x a d (d.answer a st z) where
  tied := h.answer hl st z
  dstate := d.answer_dstate a st z
  slot _ hb _ := answer_slot_ne d hb st z
  gate k b hb := by rw [Device.answer_groups] at hb; exact .inl hb
  inputs := d.answer_inputs a st z

/-- A fold of releases over distinct ready slots. -/
theorem foldl_released {f : Device → Slot → Device}
    (hf : ∀ d a, d.Tied x → d.Ready a → d.dstate = .run → Released x a d (f d a)) {l : List Slot} (hl : l.Nodup)
    (hready : ∀ a ∈ l, d.Ready a) (h : d.Tied x) (hrun : d.dstate = .run) :
    (l.foldl f d).Tied x ∧ ∀ b ∉ l, NotTimed d.slots[b] → (l.foldl f d).slots[b] = d.slots[b] := by
  induction l generalizing d with
  | nil => exact ⟨h, fun _ _ _ => rfl⟩
  | cons a l ih =>
    obtain ⟨ha, hl⟩ := List.nodup_cons.mp hl
    have hstep := hf d a h (hready a List.mem_cons_self) hrun
    obtain ⟨htied, hslot⟩ := ih hl
      (fun b hb => hstep.ready (fun hba => ha (hba ▸ hb)) (hready b (List.mem_cons_of_mem _ hb))) hstep.tied
      (hstep.dstate.trans hrun)
    refine ⟨htied, fun b hb hn => ?_⟩
    obtain ⟨hba, hbl⟩ := not_or.mp (List.mem_cons.not.mp hb)
    have hs := hstep.slot b hba hn
    exact (hslot b hbl (by rw [hs]; exact hn)).trans hs

/-! ## The action stage -/

/-- The effect of a kind at a NORMAL unclaimed point (R9 to R12). -/
theorem effect_released (h : d.Tied x) (hr : d.Ready a) {entry e : Entry} (he : d.slots[a] = some entry)
    (hrec : entry.record = e.record) (hc : d.points[pointOf e.record].claim = none)
    (hn : d.points[pointOf e.record].pstate ≠ .faulted) : Released x a d (d.effect a e) := by
  have hloose := h.loose_of_ready hr
  have hdrive (l : Bool) : d.Shrinks (d.driveLevel (pointOf e.record) l) := driveLevel_shrinks fun _ => hn
  have answered (l : Bool) : Released x a d ((d.driveLevel (pointOf e.record) l).answer a .done 0) := by
    have hdriven : (d.driveLevel (pointOf e.record) l).Loose a := ⟨hloose.notTimed, hloose.unlisted, hloose.unqueued⟩
    obtain ⟨htied, hd, hslot, hgate, hin⟩ := (h.shrink (hdrive l)).released_answer hdriven .done 0
    exact ⟨htied, hd, hslot, hgate, hin⟩
  have begun {y : Device} {b : Option Blink} (hy : y = d ∨ y = d.driveLevel (pointOf e.record) true)
      (hk : timedKind e.record b = true) : Released x a d (y.beginTimed a e b) := by
    have hsame : y.slots = d.slots ∧ y.groups = d.groups ∧ y.inputs = d.inputs ∧ y.dstate = d.dstate := by
      obtain rfl | rfl := hy <;> exact ⟨rfl, rfl, rfl, rfl⟩
    obtain ⟨hslots, hgroups, hinputs, hdstate⟩ := hsame
    have hy' : y.Tied x ∧ y.Loose a ∧ y.points[pointOf e.record].claim = none ∧
        y.points[pointOf e.record].pstate ≠ .faulted := by
      obtain rfl | rfl := hy
      · exact ⟨h, hloose, hc, hn⟩
      · obtain ⟨-, -, -, hps, -⟩ := Point.drive_config d.points[pointOf e.record] d.now true
        refine ⟨h.shrink (hdrive true), ⟨hloose.notTimed, hloose.unlisted, hloose.unqueued⟩, ?_, ?_⟩
        · rw [(driveLevel_point d _ true).2.1, hc]
        · rw [Device.driveLevel, setPoint_point, if_pos rfl, hps]
          exact hn
    obtain ⟨htied, hl, hclaim, hps⟩ := hy'
    have hea : y.slots[a] = some entry := by rw [hslots]; exact he
    refine ⟨htied.beginTimed hl hr.1 hea hrec hk hclaim hps, ?_, fun b hb _ => ?_, fun k b hb => ?_, ?_⟩ <;>
      rw [beginTimed_eq y hea] at *
    · exact hdstate
    · exact (setSlot_slot y a b _).trans ((if_neg hb).trans (by rw [hslots]))
    · rw [← hgroups]
      exact .inl hb
    · exact hinputs
  cases hk : actionKindOf e.record with
  | none =>
    unfold Device.effect
    rw [hk]
    exact .refl h
  | some k =>
    rw [effect_of_kind d hk]
    cases k with
    | set => exact answered true
    | clear => exact answered false
    | pulse => exact begun (.inr rfl) (by simp [timedKind, hk])
    | delaySet | delayClear => exact begun (.inl rfl) (by simp [timedKind, hk])
    | blink => exact begun (.inr rfl) (by simp [timedKind, hk])
    | note | keepalive => exact .refl h

/-- A claim on the point ends CXSUPER before the effect, or the entry is BUSY (R7). -/
theorem claimCheck_released (h : d.Tied x) (hr : d.Ready a) {e : Entry} (he : d.slots[a] = some e)
    (hn : d.points[pointOf e.record].pstate ≠ .faulted) : Released x a d (d.claimCheck a e) := by
  unfold Device.claimCheck
  split
  next hc => exact effect_released h hr he rfl hc hn
  · split
    · have hcancel : Released x a d (d.cancelClaim (pointOf e.record) .cxsuper) :=
        ⟨h.cancelClaim _ _, by simp, fun b _ hb => h.cancelClaim_slot _ _ hb, fun k b hb => .inl (by simpa using hb),
          by simp⟩
      have hs := h.cancelClaim_slot (pointOf e.record) .cxsuper hr.notTimed
      refine hcancel.trans (effect_released hcancel.tied ⟨hr.1, ?_, by rw [hs]; exact hr.2.2⟩ (hs.trans he) rfl
        (cancelClaim_claim d _ _) ?_)
      · unfold Device.Unlisted
        rw [Device.cancelClaim_groups, Device.cancelClaim_inputs]
        exact hr.2.1
      · rw [cancelClaim_points]
        simpa using hn
    · exact h.released_answer (h.loose_of_ready hr) _ _

/-- A ready entry runs the action stage (R4). -/
theorem actionStage_released (h : d.Tied x) (hr : d.Ready a) (hrun : d.dstate = .run) :
    Released x a d (d.actionStage a) := by
  have hloose := h.loose_of_ready hr
  unfold Device.actionStage
  split
  · exact .refl h
  next e he =>
    split
    · exact h.released_answer hloose _ _
    next hps =>
      unfold Device.gateCheck
      split
      · split
        · have hset : d.setEntryState a .gateWait = d.setSlot a (some { e with st := .gateWait }) := by
            rw [Device.setEntryState, he]
          have htied : (d.setSlot a (some { e with st := .gateWait })).Tied x := by
            refine h.setSlot hloose (notTimed_some fun b => by simp) fun t ht ho => ⟨_, rfl, ?_⟩
            subst ho
            obtain ⟨e', he', ⟨-, b, hst⟩ | ⟨hkind, -⟩⟩ := h.timers t ht
            · exact absurd hst (hr.notTimed e' b he')
            · exact .inr ⟨hkind, .inr (.inl rfl)⟩
          rw [hset]
          have hslot : (d.setSlot a (some { e with st := .gateWait })).slots[a] = some { e with st := .gateWait } := by
            rw [setSlot_slot, if_pos rfl]
          refine ⟨htied.joinGate hslot rfl hr.1 hloose.unlisted rfl hrun, by simp,
            fun b hb _ => ?_, fun k b hb => ?_, by simp⟩
          · rw [Device.joinGate_slots, setSlot_slot, if_neg hb]
          · unfold Device.joinGate at hb
            split at hb
            · exact .inl hb
            · rw [setGroup_group] at hb
              split at hb
              next hk =>
                obtain hb | hb := List.mem_append.mp hb
                · exact .inl (hk ▸ hb)
                · exact .inr (List.mem_singleton.mp hb)
              · exact .inl hb
        · exact h.released_answer hloose _ _
      · exact claimCheck_released h hr he (by simpa using hps)

end Sys2Proof.Machine
end

section
/-! No operation but a taking brings an entry into the state INTAKE (R46). -/

namespace Sys2Proof.Machine

variable {d d' d'' : Device} {a : Slot}

/-- The entry of slot `a` is being taken. -/
def Device.IntakeAt (d : Device) (a : Slot) : Prop := ∃ e : Entry, d.slots[a] = some e ∧ e.st = .intake

/-- No entry of `d'` is being taken that was not in `d`. -/
def Fresh (d d' : Device) : Prop := ∀ a : Slot, d'.IntakeAt a → d.IntakeAt a

theorem Fresh.refl (d : Device) : Fresh d d := fun _ => id

theorem Fresh.trans (h : Fresh d d') (h' : Fresh d' d'') : Fresh d d'' := fun a ha => h a (h' a ha)

theorem Fresh.of_slots (h : d'.slots = d.slots) : Fresh d d' := fun a ha => by
  unfold Device.IntakeAt at ha
  rwa [h] at ha

theorem Fresh.foldl {α : Type} {f : Device → α → Device} (hf : ∀ d x, Fresh d (f d x)) (l : List α) (d : Device) :
    Fresh d (l.foldl f d) := by
  induction l generalizing d with
  | nil => exact .refl d
  | cons x l ih => exact (hf d x).trans (ih _)

theorem setSlot_fresh (d : Device) (a : Slot) {v : Option Entry} (hv : ∀ e, v = some e → e.st ≠ .intake) :
    Fresh d (d.setSlot a v) := fun b ⟨e, he, hst⟩ => by
  rw [setSlot_slot] at he
  split at he
  · exact absurd hst (hv e he)
  · exact ⟨e, he, hst⟩

/-- An answered slot holds no entry that is being taken. -/
theorem answer_not_intakeAt (d : Device) (a : Slot) (st : Status) (z : Word) : ¬(d.answer a st z).IntakeAt a := by
  rintro ⟨e', he', hst⟩
  cases he : d.slots[a] with
  | none =>
    rw [answer_none d he, he] at he'
    cases he'
  | some e =>
    rw [answer_slot_same d he, Device.answered] at he'
    split at he' <;> cases he'
    cases hst

theorem answer_fresh (d : Device) (a : Slot) (st : Status) (z : Word) : Fresh d (d.answer a st z) := fun b hb => by
  by_cases hba : b = a
  · subst hba
    exact absurd hb (answer_not_intakeAt d b st z)
  · unfold Device.IntakeAt at hb
    rwa [answer_slot_ne d hba] at hb

/-- An entry in another state is not being taken. -/
theorem setEntryState_not_intakeAt (d : Device) (a : Slot) {st : EntryState} (hst : st ≠ .intake) :
    ¬(d.setEntryState a st).IntakeAt a := by
  rintro ⟨e, he, he'⟩
  unfold Device.setEntryState at he
  split at he
  next hn => rw [hn] at he; cases he
  · rw [setSlot_slot, if_pos rfl] at he
    cases he
    exact hst he'

theorem setEntryState_fresh (d : Device) (a : Slot) {st : EntryState} (hst : st ≠ .intake) :
    Fresh d (d.setEntryState a st) := by
  unfold Device.setEntryState
  split
  · exact .refl d
  · exact setSlot_fresh d a fun e he => by cases he; exact hst

theorem cancelClaim_fresh (d : Device) (p : PointId) (st : Status) : Fresh d (d.cancelClaim p st) := by
  unfold Device.cancelClaim
  split
  · exact .refl d
  · exact answer_fresh (d.setClaim p none) _ _ _

theorem cancelEntry_fresh (d : Device) (a : Slot) (st : Status) : Fresh d (d.cancelEntry a st) := by
  unfold Device.cancelEntry
  repeat' split
  · exact .refl d
  · exact answer_fresh ((d.setClaim _ none).unwait a) _ _ _
  · exact answer_fresh (d.unwait a) _ _ _
  · exact .refl d

theorem beginTimed_slots (d : Device) (a : Slot) (e : Entry) (b : Option Blink) :
    (d.beginTimed a e b).slots = ((d.withdraw a).setEntryState a (.timed b)).slots := rfl

/-- The effect of a record of an output kind takes the entry out of INTAKE (R4, R9 to R12). -/
theorem effect_fresh (d : Device) (a : Slot) (e : Entry) :
    Fresh d (d.effect a e) ∧
      ∀ k, actionKindOf e.record = some k → isOutputKind k = true → ¬(d.effect a e).IntakeAt a := by
  have answered (y : Device) (hy : y.slots = d.slots) :
      Fresh d (y.answer a .done 0) ∧ ¬(y.answer a .done 0).IntakeAt a :=
    ⟨(Fresh.of_slots hy).trans (answer_fresh y a _ _), answer_not_intakeAt y a _ _⟩
  have begun (y : Device) (b : Option Blink) (hy : y.slots = d.slots) :
      Fresh d (y.beginTimed a e b) ∧ ¬(y.beginTimed a e b).IntakeAt a := by
    have hne : EntryState.timed b ≠ .intake := by simp
    refine ⟨((Fresh.of_slots (d' := y.withdraw a) hy).trans (setEntryState_fresh _ a hne)).trans
      (Fresh.of_slots (beginTimed_slots y a e b)), fun h => ?_⟩
    exact setEntryState_not_intakeAt (y.withdraw a) a hne (Fresh.of_slots (beginTimed_slots y a e b) a h)
  cases hk : actionKindOf e.record with
  | none =>
    unfold Device.effect
    rw [hk]
    exact ⟨.refl d, fun k h => by cases h⟩
  | some k =>
    rw [effect_of_kind d hk]
    suffices hs : Fresh d (d.kindEffect k a e) ∧ (isOutputKind k = true → ¬(d.kindEffect k a e).IntakeAt a) from
      ⟨hs.1, fun k' hk' ho => hs.2 (Option.some.inj hk' ▸ ho)⟩
    cases k with
    | set => exact (answered (d.driveLevel _ true) rfl).imp_right fun h _ => h
    | clear => exact (answered (d.driveLevel _ false) rfl).imp_right fun h _ => h
    | pulse | blink => exact (begun (d.driveLevel _ true) _ rfl).imp_right fun h _ => h
    | delaySet | delayClear => exact (begun d _ rfl).imp_right fun h _ => h
    | note | keepalive => exact ⟨.refl d, fun h => by cases h⟩

theorem claimCheck_fresh (d : Device) (a : Slot) (e : Entry) :
    Fresh d (d.claimCheck a e) ∧
      ∀ k, actionKindOf e.record = some k → isOutputKind k = true → ¬(d.claimCheck a e).IntakeAt a := by
  unfold Device.claimCheck
  repeat' split
  · exact effect_fresh d a e
  · obtain ⟨hf, hn⟩ := effect_fresh (d.cancelClaim (pointOf e.record) .cxsuper) a e
    exact ⟨(cancelClaim_fresh d _ _).trans hf, hn⟩
  · exact ⟨answer_fresh d a _ _, fun _ _ _ => answer_not_intakeAt d a _ _⟩

/-- The action stage of a record of an output kind takes the entry out of INTAKE (R4). -/
theorem actionStage_fresh (d : Device) (a : Slot) :
    Fresh d (d.actionStage a) ∧
      ∀ e k, d.slots[a] = some e → actionKindOf e.record = some k → isOutputKind k = true →
        ¬(d.actionStage a).IntakeAt a := by
  unfold Device.actionStage
  split
  next he => exact ⟨.refl d, fun e k he' => by rw [he] at he'; cases he'⟩
  next e he =>
    suffices hs : Fresh d (if d.points[pointOf e.record].pstate == .faulted then d.answer a .ptflt 0
          else d.gateCheck a e) ∧
        ∀ k, actionKindOf e.record = some k → isOutputKind k = true →
          ¬(if d.points[pointOf e.record].pstate == .faulted then d.answer a .ptflt 0
            else d.gateCheck a e).IntakeAt a from
      ⟨hs.1, fun e' k he' => Option.some.inj (he.symm.trans he') ▸ hs.2 k⟩
    split
    · exact ⟨answer_fresh d a _ _, fun _ _ _ => answer_not_intakeAt d a _ _⟩
    · unfold Device.gateCheck
      repeat' split
      · have hne : EntryState.gateWait ≠ .intake := by simp
        refine ⟨(setEntryState_fresh d a hne).trans (Fresh.of_slots (by simp)), fun _ _ _ h => ?_⟩
        exact setEntryState_not_intakeAt d a hne (Fresh.of_slots (by simp) a h)
      · exact ⟨answer_fresh d a _ _, fun _ _ _ => answer_not_intakeAt d a _ _⟩
      · exact claimCheck_fresh d a e

end Sys2Proof.Machine
end

section
/-! The pass and the bus-master side keep the ties of the Outstanding Table (O58). -/

namespace Sys2Proof.Machine

variable {d d' d'' : Device} {a : Slot}

/-! ## What an operation keeps -/

/-- From `d` to `d'` the ties stay and no entry comes into INTAKE. -/
structure Keeps (d d' : Device) : Prop where
  tied : d.Tied none → d'.Tied none
  fresh : Fresh d d'

theorem Keeps.refl (d : Device) : Keeps d d := ⟨id, .refl d⟩

theorem Keeps.trans (h : Keeps d d') (h' : Keeps d' d'') : Keeps d d'' :=
  ⟨fun ht => h'.tied (h.tied ht), h.fresh.trans h'.fresh⟩

theorem Device.Shrinks.keeps (h : d.Shrinks d') : Keeps d d' := ⟨fun ht => ht.shrink h, .of_slots h.slots⟩

theorem Keeps.foldl {α : Type} {f : Device → α → Device} (hf : ∀ d y, Keeps d (f d y)) (l : List α) (d : Device) :
    Keeps d (l.foldl f d) := by
  induction l generalizing d with
  | nil => exact .refl d
  | cons y l ih => exact (hf d y).trans (ih _)

/-- The same, and every entry that is being taken and every active admin operation stays in its slot. -/
structure Moves (d d' : Device) : Prop where
  tied : d.Tied none → d'.Tied none ∧ ∀ (a : Slot) (e : Entry), d.slots[a] = some e → e.Plain → d'.slots[a] = some e
  fresh : Fresh d d'

theorem Moves.keeps (h : Moves d d') : Keeps d d' := ⟨fun ht => (h.tied ht).1, h.fresh⟩

theorem Moves.refl (d : Device) : Moves d d := ⟨fun ht => ⟨ht, fun _ _ he _ => he⟩, .refl d⟩

theorem Moves.trans (h : Moves d d') (h' : Moves d' d'') : Moves d d'' := by
  refine ⟨fun ht => ?_, h.fresh.trans h'.fresh⟩
  obtain ⟨ht', hs⟩ := h.tied ht
  obtain ⟨ht'', hs'⟩ := h'.tied ht'
  exact ⟨ht'', fun a e he hp => hs' a e (hs a e he hp) hp⟩

theorem Device.Shrinks.moves (h : d.Shrinks d') : Moves d d' :=
  ⟨fun ht => ⟨ht.shrink h, fun a e he _ => by rw [h.slots]; exact he⟩, .of_slots h.slots⟩

theorem Moves.foldl {α : Type} {f : Device → α → Device} (hf : ∀ d y, Moves d (f d y)) (l : List α) (d : Device) :
    Moves d (l.foldl f d) := by
  induction l generalizing d with
  | nil => exact .refl d
  | cons y l ih => exact (hf d y).trans (ih _)

theorem Entry.Plain.notTimed {e : Entry} (hp : e.Plain) : NotTimed (some e) :=
  notTimed_some fun b hb => by obtain h | h := hp <;> simp [hb] at h

theorem answer_keeps {e : Entry} (he : d.slots[a] = some e) (hp : e.Plain) (st : Status) (z : Word) :
    Keeps d (d.answer a st z) :=
  ⟨fun ht => ht.answer (ht.loose_of_plain he hp) st z, answer_fresh d a st z⟩

theorem cancelEntry_keeps (d : Device) (a : Slot) (st : Status) : Keeps d (d.cancelEntry a st) :=
  ⟨fun ht => ht.cancelEntry a st, cancelEntry_fresh d a st⟩

theorem cancelRing_keeps (d : Device) (r : RingId) (st : Status) : Keeps d (d.cancelRing r st) :=
  .foldl (fun d a => by split; exacts [cancelEntry_keeps d a st, .refl d]) _ _

theorem cancelActions_keeps (d : Device) (st : Status) : Keeps d (d.cancelActions st) :=
  .foldl (fun d a => cancelEntry_keeps d a st) _ _

/-- An answer of such an entry after a change that leaves it. -/
theorem Device.Shrinks.answer_keeps (hs : d.Shrinks d') {e : Entry} (he : d.slots[a] = some e) (hp : e.Plain)
    (st : Status) (z : Word) : Keeps d (d'.answer a st z) :=
  hs.keeps.trans (Machine.answer_keeps (by rw [hs.slots]; exact he) hp st z)

/-! ## The pass -/

theorem cancelClaim_moves (d : Device) (p : PointId) (st : Status) : Moves d (d.cancelClaim p st) :=
  ⟨fun ht => ⟨ht.cancelClaim p st, fun a e he hp => by
    rw [ht.cancelClaim_slot p st (by rw [he]; exact hp.notTimed), he]⟩, cancelClaim_fresh d p st⟩

/-- A change of a group that gives its waits up at most. -/
theorem setGroup_shrinks {k : Fin 7} {v : Group} (hv : v.waits.Sublist d.groups[k].waits) :
    d.Shrinks (d.setGroup k v) where
  __ := Device.Shrinks.refl d
  gate j := by
    rw [setGroup_group]
    split
    next hj => rw [hj]; exact hv
    · exact .refl _
  run := by exact .inl

/-- A change of an input that gives its waits up at most. -/
theorem setInput_shrinks {i : InputId} {v : Input} (hv : v.waits.Sublist d.inputs[i].waits) :
    d.Shrinks (d.setInput i v) where
  __ := Device.Shrinks.refl d
  trigger j := by
    rw [setInput_input]
    split
    next hj => rw [hj]; exact hv
    · exact .refl _

theorem closeGroup_moves (d : Device) (k : Fin 7) : Moves d (d.closeGroup k) := by
  have hclose : d.Shrinks (d.setGroup k { d.groups[k] with gate := false }) := setGroup_shrinks (List.Sublist.refl _)
  refine (hclose.moves.trans (.foldl (fun d p => cancelClaim_moves d p .cxlock) _ _)).trans
    (.foldl (f := Device.closePoint) (fun d p => ?_) _ _)
  unfold Device.closePoint
  split
  · exact (driveLevel_shrinks fun h => by cases h).moves
  · exact .refl d

/-- An entry taken out of a wait list loses its deadline and runs the action stage (R90). -/
theorem withdraw_actionStage_released (h : d.Tied none) (hr : d.Ready a) (hrun : d.dstate = .run) :
    Released none a d ((d.withdraw a).actionStage a) := by
  obtain ⟨htied, hd, hslot, hgate, hin⟩ := actionStage_released (h.withdraw hr.notTimed) hr hrun
  exact ⟨htied, hd, hslot, hgate, hin⟩

/-- The entries of an emptied wait list are ready (R90, R93). -/
theorem Device.Tied.ready_of_gateWait (h : d.Tied none) {k : Fin 7} {v : Group} (hv : v.waits = [])
    (ha : a ∈ d.groups[k].waits) : (d.setGroup k v).Ready a := by
  obtain ⟨h60, e, he, hst, hg⟩ := (h.waits.1 k).2 a ha
  refine ⟨h60, ⟨fun j hj => ?_, fun i hi => ?_⟩, e, he, .inr (.inr hst)⟩
  · rw [setGroup_group] at hj
    split at hj
    · rw [hv] at hj
      cases hj
    next hjk =>
      obtain ⟨-, e', he', -, hg'⟩ := (h.waits.1 j).2 a hj
      obtain rfl := Option.some.inj (he.symm.trans he')
      exact hjk (Fin.succ_injective _ (hg'.symm.trans hg))
  · obtain ⟨-, e', he', hst', -⟩ := (h.waits.2 i).2 a hi
    obtain rfl := Option.some.inj (he.symm.trans he')
    cases hst.symm.trans hst'

theorem openGroup_moves (k : Fin 7) (hrun : d.dstate = .run) : Moves d (d.openGroup k) where
  tied ht := by
    have hempty : d.Shrinks (d.setGroup k { d.groups[k] with gate := true, waits := [] }) :=
      setGroup_shrinks (List.nil_sublist _)
    obtain ⟨htied, hslot⟩ := foldl_released (fun d a => withdraw_actionStage_released) (ht.waits.1 k).1
      (fun a ha => ht.ready_of_gateWait rfl ha) (ht.shrink hempty) hrun
    refine ⟨htied, fun a e he hp => (hslot a (fun ha => ?_) (hempty.slots ▸ he ▸ hp.notTimed)).trans he⟩
    obtain ⟨-, e', he', hst, -⟩ := (ht.waits.1 k).2 a ha
    obtain rfl := Option.some.inj (he.symm.trans he')
    obtain h | h := hp <;> cases hst.symm.trans h
  fresh := (Fresh.of_slots rfl).trans
    (Fresh.foldl (fun d a => (Fresh.of_slots (d' := d.withdraw a) rfl).trans (actionStage_fresh _ a).1) _ _)

theorem passTurn_moves (k : Fin 7) (hrun : d.dstate = .run) : Moves d (d.passTurn k) := by
  unfold Device.passTurn
  repeat' split
  · exact .refl d
  · exact openGroup_moves k hrun
  · exact closeGroup_moves d k

theorem pass_moves (d : Device) : Moves d d.pass := by
  have turns (l : List (Fin 7)) (d : Device) (hrun : d.dstate = .run) : Moves d (l.foldl Device.passTurn d) := by
    induction l generalizing d with
    | nil => exact .refl d
    | cons k l ih => exact (passTurn_moves k hrun).trans (ih _ ((passTurn_dstate d k).trans hrun))
  unfold Device.pass
  split
  next hrun => exact turns _ d (by simpa using hrun)
  · exact .refl d

/-! ## Ring faults, the halt and the ends of admin operations -/

theorem raiseAlert_keeps (d : Device) (z : Word) : Keeps d (d.raiseAlert z) :=
  Device.Shrinks.keeps { Device.Shrinks.refl _ with }

theorem ringFault_keeps (d : Device) (r : RingId) (cause : FaultCause) : Keeps d (d.ringFault r cause) := by
  unfold Device.ringFault
  split
  · have hstop : d.Shrinks ((d.setRing r { d.rings[r] with state := .faulted, cause := cause }).dropBuffer r) :=
      { Device.Shrinks.refl d with }
    exact (hstop.keeps.trans (cancelRing_keeps _ _ _)).trans (raiseAlert_keeps _ _)
  · exact .refl d

theorem halt_keeps (d : Device) (reason : HReason) : Keeps d (d.halt reason) where
  tied _ := tied_of_empty (fun a => by simp [Device.halt]) (fun p => by simp [Device.halt, Point.atHalt]) rfl
    (fun k => by simp [Device.halt]) (fun i => by simp [Device.halt]) ⟨rfl, rfl⟩
  fresh a := by
    rintro ⟨e, he, -⟩
    simp [Device.halt] at he

theorem haltFromBus_keeps (d : Device) (reason : HReason) : Keeps d (d.haltFromBus reason) := by
  unfold Device.haltFromBus
  split
  · exact halt_keeps d reason
  · exact .refl d

theorem endReset_keeps {e : Entry} (he : d.slots[a] = some e) (hp : e.Plain) (record : RawRecord) :
    Keeps d (d.endReset a record) := by
  unfold Device.endReset
  dsimp only
  split
  · generalize resetEndState _ _ = st
    have hring (v : Ring) : d.Shrinks (d.setRing (ringNumberOf record) v) := { Device.Shrinks.refl d with }
    have hfault (v : Ring) (z : Word) : d.Shrinks ((d.setRing (ringNumberOf record) v).raiseAlert z) :=
      { Device.Shrinks.refl d with }
    by_cases hst : st = .faulted <;> simp only [hst, if_true, if_false]
    · exact (hfault _ _).answer_keeps he hp _ _
    · exact (hring _).answer_keeps he hp _ _
  · exact .refl d

theorem endDrain_keeps {e : Entry} (he : d.slots[a] = some e) (hp : e.Plain) : Keeps d (d.endDrain a) := by
  unfold Device.endDrain
  split
  next hc =>
    have hdrain : d.dstate = .draining := by
      simp only [Bool.and_eq_true, beq_iff_eq] at hc
      exact hc.1
    have hshrinks : d.Shrinks ({ d.allOff with dstate := .configure } : Device) :=
      { Device.Shrinks.refl d with point := (allOff_shrinks d).point, run := fun h => by rw [hdrain] at h; cases h }
    exact hshrinks.answer_keeps he hp _ _
  · exact .refl d

/-- The active admin operation stands in its slot (R46). -/
theorem adminActive?_slot (h : d.adminActive? = some a) : ∃ e, d.slots[a] = some e ∧ e.st = .adminActive := by
  have hactive := List.find?_some h
  cases he : d.slots[a] with
  | none => simp [isAdminActive, he] at hactive
  | some e => exact ⟨e, rfl, by simpa [isAdminActive, he] using hactive⟩

theorem endOps_keeps (d : Device) : Keeps d d.endOps := by
  unfold Device.endOps
  split
  · exact .refl d
  next a ha =>
    obtain ⟨e, he, hst⟩ := adminActive?_slot ha
    split
    · exact .refl d
    next e' he' =>
      split
      · exact endReset_keeps he (.inr hst) _
      · exact endDrain_keeps he (.inr hst)
      · exact .refl d

/-! ## Answered entries freed -/

/-- A slot that is free, or holds an answered entry that no queue names. -/
def Device.Done (d : Device) (a : Slot) : Prop :=
  (∀ e, d.slots[a] = some e → ∃ y, e.st = .answered y) ∧ a ∉ d.c0.queue ++ d.c1.queue

theorem Device.Tied.freeSlot (h : d.Tied none) (hd : d.Done a) : (d.freeSlot a).Tied none := by
  obtain ⟨hst, hq⟩ := hd
  have state (e : Entry) (he : d.slots[a] = some e) (st : EntryState) (hne : ∀ y, st ≠ .answered y) : e.st ≠ st := by
    obtain ⟨y, hy⟩ := hst e he
    exact fun hs => hne y (hs.symm.trans hy)
  refine h.setSlot ⟨fun e b he => state e he _ (by simp), h.unlisted fun e he =>
    ⟨state e he _ (by simp), state e he _ (by simp)⟩, hq⟩ notTimed_none fun t ht ho => ?_
  subst ho
  obtain ⟨e, he, ⟨-, b, hw⟩ | ⟨-, hw | hw | ⟨hw, -⟩⟩⟩ := h.timers t ht
  all_goals exact absurd hw (state e he _ (by simp))

theorem freeSlot_fresh (d : Device) (a : Slot) : Fresh d (d.freeSlot a) := setSlot_fresh d a fun e he => by cases he

/-- Another slot that is done stays so. -/
theorem freeSlot_done {b : Slot} (hd : d.Done b) : (d.freeSlot a).Done b := by
  refine ⟨fun e he => ?_, hd.2⟩
  rw [Device.freeSlot, setSlot_slot] at he
  split at he
  · cases he
  · exact hd.1 e he

theorem foldl_freeSlot_tied {l : List Slot} (h : d.Tied none) (hl : ∀ a ∈ l, d.Done a) :
    (l.foldl Device.freeSlot d).Tied none := by
  induction l generalizing d with
  | nil => exact h
  | cons a l ih =>
    exact ih (h.freeSlot (hl a List.mem_cons_self)) fun b hb => freeSlot_done (hl b (List.mem_cons_of_mem _ hb))

/-- A queued entry is done once its queue gives its slot up (R161, R162). -/
theorem Device.Tied.done_of_queue (h : d.Tied none) (ha : a ∈ d.c0.queue ++ d.c1.queue) (hslots : d'.slots = d.slots)
    (hq : a ∉ d'.c0.queue ++ d'.c1.queue) : d'.Done a := by
  refine ⟨fun e he => ?_, hq⟩
  obtain ⟨e', y, he', hst⟩ := h.queues.2 a ha
  rw [hslots] at he
  obtain rfl := Option.some.inj (he.symm.trans he')
  exact ⟨y, hst⟩

theorem faultC1_keeps (d : Device) : Keeps d d.faultC1 := by
  unfold Device.faultC1
  have hstop : d.Shrinks
      { d with c1 := { d.c1 with state := .faulted, inflight := none, queue := [], ic := false, countdown := none } } :=
    { Device.Shrinks.refl d with queue := by rw [List.append_nil]; exact List.sublist_append_left _ _ }
  refine Keeps.trans (Keeps.trans (Keeps.trans ⟨fun ht => foldl_freeSlot_tied (ht.shrink hstop) fun a ha => ?_,
    (Fresh.of_slots hstop.slots).trans (Fresh.foldl freeSlot_fresh _ _)⟩ (raiseAlert_keeps _ _))
    (Keeps.foldl (fun d r => ?_) _ _)) (endOps_keeps _)
  · refine ht.done_of_queue (List.mem_append_right _ ha) rfl fun hq => ?_
    rw [List.append_nil] at hq
    exact List.disjoint_of_nodup_append ht.queues.1 hq ha
  · split
    · exact ringFault_keeps d r _
    · exact .refl d

/-! ## The close of an event -/

theorem failCompletion_keeps (d : Device) (n : CRingId) : Keeps d (d.failCompletion n) := by
  cases n
  · exact haltFromBus_keeps d _
  · exact faultC1_keeps d

/-- A change of a completion ring that gives its queue up at most. -/
theorem setCRing_shrinks {n : CRingId} {v : CRing} (hv : v.queue.Sublist (d.cring n).queue) :
    d.Shrinks (d.setCRing n v) := by
  cases n
  · exact { Device.Shrinks.refl d with queue := List.Sublist.append_right hv _ }
  · exact { Device.Shrinks.refl d with queue := List.Sublist.append_left hv _ }

theorem issue_keeps (d : Device) (n : CRingId) : Keeps d (d.issue n) := by
  unfold Device.issue
  repeat' split
  · exact .refl d
  next e ans _ _ _ =>
    have hissue : d.Shrinks (d.setCRing n { d.cring n with inflight := some (d.formWrite n e ans) }) :=
      setCRing_shrinks (List.Sublist.refl _)
    exact hissue.keeps
  · exact failCompletion_keeps d n
  · exact .refl d

theorem readFailed_keeps (d : Device) (r : RingId) : Keeps d (d.readFailed r) := by
  unfold Device.readFailed
  split
  · exact haltFromBus_keeps d _
  · exact ringFault_keeps d r _

theorem grant_keeps (d : Device) : Keeps d d.grant := by
  unfold Device.grant
  split
  · exact .refl d
  · split
    · exact .refl d
    next r _ =>
      generalize (if r = 0 then d.lastGrant else r) = last
      have hlast : d.Shrinks { d with lastGrant := last } := { Device.Shrinks.refl d with }
      split
      · exact Device.Shrinks.keeps { Device.Shrinks.refl _ with }
      · exact hlast.keeps.trans (readFailed_keeps { d with lastGrant := last } r)

theorem service_keeps (d : Device) : Keeps d d.service :=
  ((issue_keeps d .c1).trans (issue_keeps _ .c0)).trans (grant_keeps _)

theorem settle_keeps (d : Device) : Keeps d d.settle := by
  have rounds (n : Nat) (d : Device) : Keeps d (Device.serviceRounds n d) := by
    induction n generalizing d with
    | zero => exact .refl d
    | succ n ih => exact (service_keeps d).trans (ih _)
  unfold Device.settle
  split
  · exact service_keeps d
  · exact rounds 6 d

theorem signalRise_keeps (d before : Device) (again : Bool) : Keeps d (d.signalRise before again) := by
  rw [signalRise_eq]
  exact Device.Shrinks.keeps { Device.Shrinks.refl _ with }

/-- An event keeps what its own effect keeps. -/
theorem event_keeps {f : Device → Device} (h : Keeps d (f d)) : Keeps d (d.event f) :=
  (h.trans (settle_keeps _)).trans (signalRise_keeps _ _ _)

end Sys2Proof.Machine
end

section
/-! A taking fills a slot and its intake takes the entry out of INTAKE (O58). -/

namespace Sys2Proof.Machine

variable {d d' d'' : Device} {a : Slot} {e : Entry}

/-- What an event keeps of a block between events: the ties, and that no entry is being taken. -/
structure Kept (d d' : Device) : Prop where
  tied : d.Tied none → d'.Tied none
  intake : d.NoIntake → d'.NoIntake

theorem Keeps.kept (h : Keeps d d') : Kept d d' :=
  ⟨h.tied, fun hn a e he hst => by
    obtain ⟨e', he', hst'⟩ := h.fresh a ⟨e, he, hst⟩
    exact hn a e' he' hst'⟩

theorem Kept.refl (d : Device) : Kept d d := ⟨id, id⟩

/-- The intake of the entry in slot `a` leaves the ties, and leaves the entry in a state of R46. -/
structure Settles (a : Slot) (d d' : Device) : Prop extends Keeps d d' where
  settled : ¬d'.IntakeAt a

theorem Settles.then (h : Settles a d d') (h' : Keeps d' d'') : Settles a d d'' :=
  ⟨h.toKeeps.trans h', fun ha => h.settled (h'.fresh a ha)⟩

theorem Keeps.then (h : Keeps d d') (h' : Settles a d' d'') : Settles a d d'' := ⟨h.trans h'.toKeeps, h'.settled⟩

theorem answer_settles (he : d.slots[a] = some e) (hp : e.Plain) (st : Status) (z : Word) :
    Settles a d (d.answer a st z) := ⟨answer_keeps he hp st z, answer_not_intakeAt d a st z⟩

/-- An answer after a change that leaves the entry taken. -/
theorem Moves.answer_settles (h : Moves d d') (he : d.slots[a] = some e) (hp : e.Plain) (st : Status) (z : Word) :
    Settles a d (d'.answer a st z) where
  tied ht := by
    obtain ⟨ht', hslots⟩ := h.tied ht
    exact ht'.answer (ht'.loose_of_plain (hslots a e he hp) hp) st z
  fresh := h.fresh.trans (answer_fresh d' a st z)
  settled := answer_not_intakeAt d' a st z

/-! ## The taking itself -/

/-- A taking fills a free slot of its ring's pool (R44, R53). -/
theorem taken?_slot {r : RingId} {head : RawRecord} {rest : List RawRecord} (h : d.taken? r = some (head, rest, a)) :
    (r = 0 ↔ 60 ≤ a.val) ∧ d.slots[a] = none := by
  obtain ⟨-, hfree, -⟩ := taken?_eq_some_iff.mp h
  obtain ⟨hpool, hslot, -⟩ := lowestFree_eq_some_iff.mp hfree
  exact ⟨hpool, hslot⟩

/-- The record taken fills a slot that nothing names (R45). -/
theorem Device.Tied.takeHead (h : d.Tied none) (hfree : d.slots[a] = none) (r : RingId) (head : RawRecord)
    (rest : List RawRecord) : (d.takeHead r a head rest).Tied none := by
  have hring : d.Shrinks
      (d.setRing r { d.rings[r] with buf := rest, tail := (d.rings[r].tail + 1) % d.rings[r].size }) :=
    { Device.Shrinks.refl d with }
  exact (h.shrink hring).setSlot ((h.shrink hring).loose_of_free hfree) (notTimed_some fun b => by simp)
    fun t ht ho => absurd ho (h.owner_ne_of_free hfree t ht)

/-- A taking keeps what its intake settles. -/
theorem taking_kept {r : RingId} {isKind : RawRecord → Bool} {intake : Slot → RawRecord → Device → Device}
    (h : ∀ a head d', isKind head = true → d.takeState r = true → d'.dstate = d.dstate → (r = 0 ↔ 60 ≤ a.val) →
      ∀ e : Entry, d'.slots[a] = some e → e.st = .intake → e.record = head → Settles a d' (intake a head d')) :
    Kept d (d.taking r isKind intake) := by
  unfold Device.taking
  split
  next head rest a ht =>
    split
    next hk =>
      obtain ⟨hpool, hfree⟩ := taken?_slot ht
      obtain ⟨⟨htied, hfresh⟩, hsettled⟩ := h a head (d.takeHead r a head rest) hk (taken_state d r head rest a ht) rfl
        hpool _ (takeHead_slot d r a head rest) rfl rfl
      have hclose : Keeps (intake a head (d.takeHead r a head rest))
          (d.event fun d => intake a head (d.takeHead r a head rest)) :=
        (settle_keeps _).trans (signalRise_keeps _ _ _)
      refine ⟨fun hd => hclose.tied (htied (hd.takeHead hfree r head rest)), fun hn b e he hst => ?_⟩
      have hb := hclose.fresh b ⟨e, he, hst⟩
      by_cases hba : b = a
      · subst hba
        exact hsettled hb
      · obtain ⟨e', he', hst'⟩ := hfresh b hb
        rw [Device.takeHead, setSlot_slot, if_neg hba] at he'
        exact hn b e' he' hst'
    · exact .refl d
  · exact .refl d

/-! ## The intake of action records (R31) -/

/-- The entry being taken may be given its DEADLINE (R33). -/
theorem Device.Tied.addDeadline (h : d.Tied none) (he : d.slots[a] = some e) (hst : e.st = .intake)
    (record : RawRecord) : (d.addDeadline a record).Tied (some a) := by
  have hopen : d.Tied (some a) := by
    refine { h with timers := fun t ht => ?_ }
    obtain ⟨e', he', hfits⟩ := h.timers t ht
    exact ⟨e', he', hfits.imp_right (.imp_right (.imp_right (.imp_right (by simp))))⟩
  unfold Device.addDeadline
  split
  · exact hopen
  · refine hopen.addTimer he (.inr ⟨rfl, .inr (.inr ⟨hst, rfl⟩)⟩) fun t ht ho => ?_
    subst ho
    obtain ⟨e', he', hfits⟩ := h.timers t ht
    obtain rfl := Option.some.inj (he.symm.trans he')
    simp [TimerFits, hst] at hfits

/-- The ties at the end of an intake. -/
theorem Device.Tied.settled (h : d.Tied (some a)) (hn : ¬d.IntakeAt a) : d.Tied none := by
  refine { h with timers := fun t ht => ?_ }
  obtain ⟨e, he, hfits⟩ := h.timers t ht
  refine ⟨e, he, hfits.imp_right (.imp_right (.imp_right (.imp_right fun ⟨hst, ha⟩ => ⟨hst, ?_⟩)))⟩
  obtain rfl := Option.some.inj ha
  exact absurd ⟨e, he, hst⟩ hn

theorem addDeadline_fresh (d : Device) (a : Slot) (record : RawRecord) : Fresh d (d.addDeadline a record) :=
  .of_slots (d.addDeadline_slots a record)

/-- A record taken into TRIGGER_WAIT (R35, R36). -/
theorem triggerWait_settles (he : d.slots[a] = some e) (hst : e.st = .intake) (h60 : a.val < 60) :
    Settles a d ((d.addDeadline a e.record).enterTriggerWait a e.record) := by
  have he' : (d.addDeadline a e.record).slots[a] = some e := by rw [Device.addDeadline_slots]; exact he
  have hset : (d.addDeadline a e.record).setEntryState a .triggerWait =
      (d.addDeadline a e.record).setSlot a (some { e with st := .triggerWait }) := by
    rw [Device.setEntryState, he']
  have hslot : ((d.addDeadline a e.record).setSlot a (some { e with st := .triggerWait })).slots[a] =
      some { e with st := .triggerWait } := by rw [setSlot_slot, if_pos rfl]
  unfold Device.enterTriggerWait
  rw [hset]
  have hsettled : ¬(((d.addDeadline a e.record).setSlot a (some { e with st := .triggerWait })).joinTrigger
      (trigInOf e.record) a).IntakeAt a := by
    rintro ⟨e', hs, hst'⟩
    obtain rfl := Option.some.inj (hslot.symm.trans hs)
    cases hst'
  refine ⟨⟨fun ht => .settled ?_ hsettled, ((addDeadline_fresh d a _).trans (setSlot_fresh _ a fun e' hs => ?_)).trans
    (.of_slots rfl)⟩, hsettled⟩
  · have hopen := ht.addDeadline he hst e.record
    have hloose := hopen.loose_of_plain he' (.inl hst)
    refine (hopen.setSlot hloose (notTimed_some fun b => by simp) fun t htm ho => ⟨_, rfl, ?_⟩).joinTrigger
      (e := { e with st := .triggerWait }) hslot rfl h60 hloose.unlisted
    subst ho
    obtain ⟨e', hs, ⟨-, b, hb⟩ | ⟨hk, -⟩⟩ := hopen.timers t htm
    · exact absurd hb (hloose.notTimed e' b hs)
    · exact .inr ⟨hk, .inl rfl⟩
  · cases hs
    simp

/-- A record of an output kind taken into the action stage (R4, R31). -/
theorem actionStage_settles (he : d.slots[a] = some e) (hst : e.st = .intake) (h60 : a.val < 60)
    (hrun : d.dstate = .run) {k : ActionKind} (hk : actionKindOf e.record = some k) (ho : isOutputKind k = true) :
    Settles a d ((d.addDeadline a e.record).actionStage a) := by
  have he' : (d.addDeadline a e.record).slots[a] = some e := by rw [Device.addDeadline_slots]; exact he
  obtain ⟨hfresh, houtput⟩ := actionStage_fresh (d.addDeadline a e.record) a
  have hsettled := houtput e k he' hk ho
  refine ⟨⟨fun ht => .settled ?_ hsettled, (addDeadline_fresh d a _).trans hfresh⟩, hsettled⟩
  have hopen := ht.addDeadline he hst e.record
  exact (actionStage_released hopen ⟨h60, (hopen.loose_of_plain he' (.inl hst)).unlisted, e, he', .inl hst⟩
    (by simpa using hrun)).tied

/-- A slot of an action ring's pool (R44). -/
theorem action_slot {r : RingId} (hr : (r != 0) = true) (hpool : r = 0 ↔ 60 ≤ a.val) : a.val < 60 :=
  Nat.not_le.mp fun h => (bne_iff_ne.mp hr) (hpool.mpr h)

theorem takeOutput_kept (d : Device) {k : ActionKind} (ho : isOutputKind k = true) (r : RingId) :
    Kept d (d.takeOutput k r) := by
  refine taking_kept fun a head d' hk ht hd hpool e he hst hrec => ?_
  simp only [Bool.and_eq_true] at hk
  obtain ⟨hr, hkind⟩ := hk
  have hrun : d'.dstate = .run := hd.trans (takeState_run d r hr ht)
  have h60 : a.val < 60 := action_slot hr hpool
  subst hrec
  unfold Device.intakeOutput
  repeat' split
  · exact answer_settles he (.inl hst) _ _
  · exact triggerWait_settles he hst h60
  · exact actionStage_settles he hst h60 hrun (by simpa [isActionKind] using hkind) ho
  · exact answer_settles he (.inl hst) _ _

theorem takeNote_kept (d : Device) (r : RingId) :
    Kept d (d.taking r (fun h => r != 0 && isActionKind .note h) Device.intakeNote) := by
  refine taking_kept fun a head d' hk _ _ hpool e he hst hrec => ?_
  simp only [Bool.and_eq_true] at hk
  subst hrec
  unfold Device.intakeNote
  split
  · exact triggerWait_settles he hst (action_slot hk.1 hpool)
  · exact answer_settles he (.inl hst) _ _

theorem takeKeepalive_kept (d : Device) (r : RingId) :
    Kept d (d.taking r (fun h => r != 0 && isActionKind .keepalive h) Device.intakeKeepalive) := by
  refine taking_kept fun a head d' _ _ _ _ e he hst _ => ?_
  have harm : d'.Shrinks (d'.armCountdown .ok) := { Device.Shrinks.refl d' with }
  unfold Device.intakeKeepalive
  repeat' split
  · exact harm.moves.answer_settles he (.inl hst) _ _
  all_goals exact answer_settles he (.inl hst) _ _

theorem takeUnknown_kept (d : Device) (r : RingId) : Kept d (d.taking r (isUnknownKind r) Device.intakeUnknown) :=
  taking_kept fun _ _ _ _ _ _ _ _ he hst _ => answer_settles he (.inl hst) _ _

end Sys2Proof.Machine
end

section
/-! The takings of admin records keep the ties of the Outstanding Table (O58). -/

namespace Sys2Proof.Machine

variable {d d' d'' : Device} {a : Slot} {e : Entry}

theorem takeAdmin_kept {k : AdminKind} {execute : Slot → RawRecord → Device → Device}
    (h : ∀ a record d', d'.adminPermitted k = true → ∀ e : Entry, d'.slots[a] = some e → e.st = .intake →
      Settles a d' (execute a record d')) :
    Kept d (d.takeAdmin k execute) := by
  refine taking_kept fun a record d' _ _ _ _ e he hst _ => ?_
  split
  next hp => exact h a record d' hp e he hst
  · exact answer_settles he (.inl hst) _ _

/-- A checked record whose effect leaves the entry taken (R179). -/
theorem takeChecked_kept {k : AdminKind} {ok : RawRecord → Bool} {apply : RawRecord → Device → Device}
    (h : ∀ record d', d'.adminPermitted k = true → Moves d' (apply record d')) :
    Kept d (d.takeAdmin k (Device.checked ok apply)) := by
  refine takeAdmin_kept fun a record d' hp e he hst => ?_
  unfold Device.checked
  split
  · exact (h record d' hp).answer_settles he (.inl hst) _ _
  · exact answer_settles he (.inl hst) _ _

/-! ## Records that define the configuration -/

theorem configureRing_kept (d : Device) : Kept d (d.takeAdmin .configureRing Device.doConfigureRing) := by
  refine takeAdmin_kept fun a record d' _ e he hst => ?_
  have hring : d'.Shrinks (d'.setRing (ringNumberOf record) (configuredRing record)) := { Device.Shrinks.refl d' with }
  unfold Device.doConfigureRing
  repeat' split
  · exact hring.moves.answer_settles he (.inl hst) _ _
  all_goals exact answer_settles he (.inl hst) _ _

theorem setC1_moves (d : Device) (record : RawRecord) : Moves d (d.setC1 record) := by
  have hshrinks : d.Shrinks (d.setC1 record) :=
    { Device.Shrinks.refl d with queue := List.Sublist.append_left (List.nil_sublist _) _ }
  exact hshrinks.moves

/-- A point defined anew where no entry waits for a gate (R2). -/
theorem applyPoint_moves (record : RawRecord) (hd : d.dstate ≠ .run) : Moves d (d.applyPoint record) where
  tied h := by
    have hpoint (q : PointId) : (d.applyPoint record).points[q].claim = d.points[q].claim ∧
        (d.applyPoint record).points[q].pstate = d.points[q].pstate ∧
        (d.applyPoint record).points[q].level = d.points[q].level := by
      rw [Device.applyPoint, setPoint_point]
      split
      next hq => subst hq; exact ⟨rfl, rfl, rfl⟩
      · exact ⟨rfl, rfl, rfl⟩
    have hnone (k : Fin 7) : d.groups[k].waits = [] := h.quiet hd k
    refine ⟨⟨fun q b => ?_, fun q hq => ?_, h.owners, h.timers, h.timed,
      ⟨fun k => ⟨(h.waits.1 k).1, fun b hb => ?_⟩, h.waits.2⟩, h.queues, h.quiet⟩, fun _ _ hs _ => hs⟩
    · rw [(hpoint q).1]
      exact h.claims q b
    · obtain ⟨hclaim, hpstate, hlevel⟩ := hpoint q
      rw [hpstate] at hq
      rw [hlevel, hclaim]
      exact h.faulted q hq
    · have hb' : b ∈ d.groups[k].waits := hb
      rw [hnone k] at hb'
      cases hb'
  fresh := .of_slots rfl

theorem applyInput_moves (d : Device) (record : RawRecord) : Moves d (d.applyInput record) := by
  have hshrinks : d.Shrinks (d.applyInput record) := setInput_shrinks (List.Sublist.refl _)
  exact hshrinks.moves

theorem applyZone_moves (d : Device) (record : RawRecord) : Moves d (d.applyZone record) :=
  Device.Shrinks.moves { Device.Shrinks.refl _ with }

theorem applyGroup_shrinks (d : Device) (record : RawRecord) : d.Shrinks (d.applyGroup record) :=
  setGroup_shrinks (List.Sublist.refl _)

theorem defineGroup_kept (d : Device) : Kept d (d.takeAdmin .defineGroup Device.doDefineGroup) := by
  refine takeAdmin_kept fun a record d' _ e he hst => ?_
  unfold Device.doDefineGroup
  repeat' split
  · exact (applyGroup_shrinks d' record).moves.answer_settles he (.inl hst) _ _
  all_goals exact answer_settles he (.inl hst) _ _

theorem applyInterval_moves (d : Device) (record : RawRecord) : Moves d (d.applyInterval record) :=
  Device.Shrinks.moves { Device.Shrinks.refl _ with }

theorem applyClearFault_moves (d : Device) (record : RawRecord) : Moves d (d.applyClearFault record) := by
  have hshrinks : d.Shrinks (d.applyClearFault record) :=
    { Device.Shrinks.refl d with
      point := fun q => by
        rw [Device.applyClearFault, setPoint_point]
        split
        next hq => subst hq; exact ⟨rfl, rfl, fun hf => by cases hf⟩
        · exact .refl _ }
  exact hshrinks.moves

/-! ## Records that act on gates and supervision -/

theorem startSupervision_shrinks (d : Device) : d.Shrinks d.startSupervision := by
  unfold Device.startSupervision
  split
  · exact { Device.Shrinks.refl d with }
  · exact { Device.Shrinks.refl d with }

theorem closeGates_shrinks (d : Device) : d.Shrinks d.closeGates where
  __ := Device.Shrinks.refl d
  gate k := by simp [Device.closeGates]
  run := .inl

theorem goRun_moves (d : Device) : Moves d d.goRun := by
  have hrun : d.Shrinks { d with dstate := .run } := { Device.Shrinks.refl d with run := fun _ => .inl rfl }
  exact ((hrun.moves.trans (startSupervision_shrinks _).moves).trans (closeGates_shrinks _).moves).trans (pass_moves _)

theorem enterRun_kept (d : Device) : Kept d (d.takeAdmin .enterRun Device.doEnterRun) := by
  refine takeAdmin_kept fun a record d' _ e he hst => ?_
  unfold Device.doEnterRun
  repeat' split
  · exact answer_settles he (.inl hst) _ _
  · exact (goRun_moves d').answer_settles he (.inl hst) _ _
  all_goals exact answer_settles he (.inl hst) _ _

theorem applyForce_moves (d : Device) (record : RawRecord) : Moves d (d.applyForce record) := by
  have hforce : d.Shrinks (d.setGroup (groupIndexOf record)
      { d.groups[groupIndexOf record] with force := byteAt record 5 == 1 }) := setGroup_shrinks (List.Sublist.refl _)
  exact hforce.moves.trans (pass_moves _)

theorem applyRestore_moves (d : Device) (record : RawRecord) : Moves d (d.applyRestore record) := by
  unfold Device.applyRestore
  split
  · exact (startSupervision_shrinks d).moves
  · exact (startSupervision_shrinks d).moves.trans (pass_moves _)

/-! ## Operations that take time -/

/-- The admin record just taken becomes the active operation (R46). -/
theorem activate_settles (he : d.slots[a] = some e) (hst : e.st = .intake) :
    Settles a d (d.setEntryState a .adminActive) where
  tied h := by
    rw [Device.setEntryState, he]
    refine h.setSlot (h.loose_of_plain he (.inl hst)) (notTimed_some fun b => by simp) fun t ht ho => ?_
    subst ho
    obtain ⟨e', hs, hfits⟩ := h.timers t ht
    obtain rfl := Option.some.inj (he.symm.trans hs)
    simp [TimerFits, hst] at hfits
  fresh := setEntryState_fresh d a (by simp)
  settled := setEntryState_not_intakeAt d a (by simp)

theorem startReset_keeps (d : Device) (r : RingId) : Keeps d (d.startReset r) := by
  have hstop : d.Shrinks ((d.setRing r { d.rings[r] with state := .resetting }).dropBuffer r) :=
    { Device.Shrinks.refl d with }
  exact hstop.keeps.trans (cancelRing_keeps _ r _)

theorem ringReset_kept (d : Device) : Kept d (d.takeAdmin .ringReset Device.doRingReset) := by
  refine takeAdmin_kept fun a record d' _ e he hst => ?_
  unfold Device.doRingReset
  repeat' split
  · exact ((activate_settles he hst).then (startReset_keeps _ _)).then (endOps_keeps _)
  all_goals exact answer_settles he (.inl hst) _ _

theorem snapshot_kept (d : Device) : Kept d (d.takeAdmin .snapshot Device.doSnapshot) := by
  refine takeAdmin_kept fun a record d' _ e he hst => ?_
  have hactive := activate_settles he hst
  have hslot : (d'.setEntryState a .adminActive).slots[a] = some { e with st := .adminActive } := by
    rw [Device.setEntryState, he, setSlot_slot, if_pos rfl]
  unfold Device.doSnapshot
  dsimp only
  repeat' split
  · exact hactive.then (Device.Shrinks.keeps { Device.Shrinks.refl _ with })
  · exact hactive.then (answer_keeps hslot (.inr rfl) _ _)
  · exact answer_settles he (.inl hst) _ _

theorem digest_kept (d : Device) : Kept d (d.takeAdmin .digest Device.doDigest) := by
  refine takeAdmin_kept fun a record d' _ e he hst => ?_
  unfold Device.doDigest
  split <;> exact answer_settles he (.inl hst) _ _

/-! ## The drain -/

theorem dropBuffers_shrinks (d : Device) : d.Shrinks d.dropBuffers := by
  rw [dropBuffers_eq]
  exact { Device.Shrinks.refl d with }

/-- The drain leaves no TIMED entry (R181). -/
theorem Device.Tied.startDrain_notTimed (h : d.Tied none) (b : Slot) : NotTimed d.startDrain.slots[b] := by
  intro e blink he hst
  by_cases hlive : b.val < 60 ∧ ∃ e, d.slots[b] = some e ∧ e.isLive = true
  · obtain ⟨h60, e', he', hl⟩ := hlive
    rw [startDrain_slot_live d h60 he' hl, Device.answered] at he
    split at he <;> cases he
    cases hst
  · rw [startDrain_slot_other d hlive] at he
    exact hlive ⟨(h.timed b e blink he hst).1, e, he, by simp [Entry.isLive, hst]⟩

theorem startDrain_keeps (d : Device) : Keeps d d.startDrain := by
  have hcancel : Keeps d d.cancelledWork := (dropBuffers_shrinks d).keeps.trans (cancelActions_keeps _ _)
  have hslots : d.startDrain.slots = d.cancelledWork.slots := by rw [startDrain_eq]
  refine ⟨fun h => (hcancel.tied h).shrink ?_, hcancel.fresh.trans (.of_slots hslots)⟩
  have hnot (b : Slot) : NotTimed d.cancelledWork.slots[b] := hslots ▸ h.startDrain_notTimed b
  rw [startDrain_eq]
  generalize d.cancelledWork = x at hnot ⊢
  exact {
    Device.Shrinks.refl x with
    timing := .inr ⟨rfl, hnot⟩
    point := (allOff_shrinks x).point
    gate := fun k => by simp
    trigger := fun i => by simp
    run := fun _ => .inr fun k => by simp }

theorem enterConfigure_kept (d : Device) : Kept d (d.takeAdmin .enterConfigure Device.doEnterConfigure) := by
  refine takeAdmin_kept fun a record d' _ e he hst => ?_
  unfold Device.doEnterConfigure
  split
  · exact ((activate_settles he hst).then (startDrain_keeps _)).then (endOps_keeps _)
  · exact answer_settles he (.inl hst) _ _

end Sys2Proof.Machine
end

section
/-! The host's writes, the boot and the bus keep the ties of the Outstanding Table (O58). -/

namespace Sys2Proof.Machine

variable {d d' : Device} {a : Slot} {e : Entry}

/-! ## Host writes -/

theorem beginBoot_keeps (hd : d.dstate = .init) : Keeps d d.beginBoot := by
  have hrun : d.dstate = .run → ∀ x : Prop, x := fun h => by rw [hd] at h; cases h
  have hbooting : d.Shrinks { d with dstate := .booting } := { Device.Shrinks.refl d with run := fun h => hrun h _ }
  have hread : d.Shrinks { d with dstate := .booting, bootRead := some ⟨d.bootAddress, d.now⟩ } :=
    { Device.Shrinks.refl d with run := fun h => hrun h _ }
  unfold Device.beginBoot
  repeat' split
  · exact hread.keeps
  · exact hbooting.keeps.trans (halt_keeps _ _)
  · exact hbooting.keeps.trans (halt_keeps _ _)

theorem writeControl_keeps (d : Device) {v : Word} (hv : v.getLsbD 1 = false) : Keeps d (d.writeControl v) := by
  have hstore : d.Shrinks { d with control := v &&& controlStored } := { Device.Shrinks.refl d with }
  unfold Device.writeControl
  rw [hv, if_neg Bool.false_ne_true]
  refine event_keeps ?_
  unfold Device.storeControl
  split
  next h =>
    simp only [Bool.and_eq_true, beq_iff_eq] at h
    exact hstore.keeps.trans (beginBoot_keeps h.1)
  · exact hstore.keeps

theorem writeBoot_keeps (d : Device) (half : BootHalf) (v : Word) : Keeps d (d.writeBoot half v) := by
  unfold Device.writeBoot
  split
  · cases half
    · exact Device.Shrinks.keeps { Device.Shrinks.refl _ with }
    · exact Device.Shrinks.keeps { Device.Shrinks.refl _ with }
  · exact .refl d

theorem writeAlert_keeps (d : Device) (v : Word) : Keeps d (d.writeAlert v) :=
  event_keeps (Device.Shrinks.keeps { Device.Shrinks.refl _ with })

theorem discardIndex_keeps (d : Device) : Keeps d d.discardIndex := by
  unfold Device.discardIndex
  split
  · exact .refl d
  · exact raiseAlert_keeps d _

theorem acceptProducer_keeps (d : Device) (r : RingId) (v : Word) : Keeps d (d.acceptProducer r v) :=
  Device.Shrinks.keeps { Device.Shrinks.refl _ with }

theorem producerEffect_keeps (d : Device) (v : Word) : Keeps d (d.producerEffect v) := by
  unfold Device.producerEffect Device.producerAdmin Device.producerAction
  repeat' split
  · exact discardIndex_keeps d
  · exact discardIndex_keeps d
  · exact acceptProducer_keeps d _ v
  · exact ringFault_keeps d _ _
  · exact ringFault_keeps d _ _
  · exact acceptProducer_keeps d _ v
  · exact discardIndex_keeps d
  · exact discardIndex_keeps d

/-- An acknowledgment leaves the answer queue. -/
theorem acknowledge_queue (c : CRing) (now : Time) : (c.acknowledge now).queue = c.queue := by
  unfold CRing.acknowledge
  repeat' split
  all_goals rfl

theorem writeConsumer_keeps (d : Device) (v : Word) : Keeps d (d.writeConsumer v) := by
  have heffect : Keeps d (d.consumerEffect v) := by
    unfold Device.consumerEffect
    split
    next n _ =>
      have hring : d.Shrinks (d.setCRing n (({ d.cring n with consumer := indexField v } : CRing).acknowledge d.now)) :=
        setCRing_shrinks (by rw [acknowledge_queue])
      exact hring.keeps.trans (Device.Shrinks.keeps { Device.Shrinks.refl _ with })
    · exact discardIndex_keeps d
  exact (heffect.trans (settle_keeps _)).trans (signalRise_keeps _ _ _)

theorem writeRegister_keeps (d : Device) {offset : BitVec 6} {width : Nat} {v : Word}
    (hr : resets (.registerWriteOther offset width v) = false) : Keeps d (d.writeRegister offset width v) := by
  unfold Device.writeRegister
  split
  next hw =>
    split
    next ho =>
      obtain rfl : offset = 0x04 := BitVec.eq_of_toNat_eq ho
      subst hw
      exact writeControl_keeps d hr
    · exact writeAlert_keeps d v
    · exact writeBoot_keeps d .lo v
    · exact writeBoot_keeps d .hi v
    · exact event_keeps (producerEffect_keeps d v)
    · exact writeConsumer_keeps d v
    · exact .refl d
  · exact .refl d

/-! ## The boot -/

theorem bootArrival_keeps (d : Device) (b : BootBlock) : Keeps d (d.bootArrival b) := by
  unfold Device.bootArrival
  split
  next op hop =>
    have hd := booting_of_booting? d op hop
    have hboot : d.Shrinks (d.bootSucceeds b) :=
      { Device.Shrinks.refl d with
        queue := List.Sublist.append_right (List.nil_sublist _) _
        run := fun h => by rw [hd] at h; cases h }
    refine event_keeps ?_
    split
    · exact hboot.keeps
    · exact halt_keeps d _
  · exact .refl d

theorem bootFailure_keeps (d : Device) (how : ReadFault) : Keeps d (d.bootFailure how) := by
  unfold Device.bootFailure
  repeat' split
  · exact event_keeps (halt_keeps d _)
  · exact .refl d
  · exact .refl d

/-! ## The ends of admin operations -/

theorem endSnapshot_keeps (d : Device) (st : Status) : Keeps d (d.endSnapshot st) := by
  unfold Device.endSnapshot
  split
  next a _ ha =>
    obtain ⟨e, he, hst⟩ := adminActive?_slot ha
    have hended : d.Shrinks { d with snapWrite := none } := { Device.Shrinks.refl d with }
    exact event_keeps (hended.answer_keeps he (.inr hst) _ _)
  · exact .refl d

/-! ## Reads and completion writes -/

theorem delayExpires_keeps (d : Device) (n : CRingId) : Keeps d (d.delayExpires n) := by
  have hring : d.Shrinks (d.delayExpires n) := setCRing_shrinks (List.Sublist.refl _)
  exact hring.keeps

/-- An accepted write takes the head off the queue (R161). -/
theorem accepted_queue (c : CRing) (now : Time) : (c.accepted now).queue = c.queue.tail := by
  unfold CRing.accepted CRing.coalesce
  repeat' split
  all_goals rfl

/-- The slot at the head of a queue is in no queue once its own gives it up (R158, R161). -/
theorem Device.Tied.head_unqueued (h : d.Tied none) {n : CRingId} {l : List Slot} (hq : (d.cring n).queue = a :: l)
    {v : CRing} (hv : v.queue = l) : a ∉ (d.setCRing n v).c0.queue ++ (d.setCRing n v).c1.queue := by
  obtain ⟨hnodup, -⟩ := h.queues
  cases n with
  | c0 =>
    rw [Device.setCRing_c0_c0, Device.setCRing_c0_c1, hv]
    rw [show d.c0.queue = a :: l from hq] at hnodup
    exact (List.nodup_cons.mp hnodup).1
  | c1 =>
    rw [Device.setCRing_c1_c0, Device.setCRing_c1_c1, hv]
    rw [show d.c1.queue = a :: l from hq] at hnodup
    exact (List.nodup_cons.mp (List.perm_middle.nodup_iff.mp hnodup)).1

/-- The acceptance of a completion write frees the slot at the head of its queue (R161). -/
theorem writeAccepted_keeps (d : Device) (n : CRingId) : Keeps d (d.writeAccepted n) := by
  refine Keeps.trans (d' := (d.freeHead n).setCRing n ((d.cring n).accepted d.now)) ?_ (endOps_keeps _)
  have hring : d.Shrinks (d.setCRing n ((d.cring n).accepted d.now)) :=
    setCRing_shrinks (by rw [accepted_queue]; exact List.tail_sublist _)
  unfold Device.freeHead
  split
  · exact hring.keeps
  next a l hq =>
    have hcomm : (d.freeSlot a).setCRing n ((d.cring n).accepted d.now) =
        (d.setCRing n ((d.cring n).accepted d.now)).freeSlot a := by cases n <;> rfl
    have hhead : a ∈ d.c0.queue ++ d.c1.queue := by
      refine List.mem_append.mpr ?_
      cases n with
      | c0 => exact .inl (by rw [show d.c0.queue = a :: l from hq]; exact List.mem_cons_self)
      | c1 => exact .inr (by rw [show d.c1.queue = a :: l from hq]; exact List.mem_cons_self)
    rw [hcomm]
    refine ⟨fun h => (h.shrink hring).freeSlot (h.done_of_queue hhead hring.slots (h.head_unqueued hq ?_)),
      hring.keeps.fresh.trans (freeSlot_fresh _ _)⟩
    rw [accepted_queue, hq, List.tail_cons]

theorem readEnded_keeps (d : Device) : Keeps d { d with channel := none } :=
  Device.Shrinks.keeps { Device.Shrinks.refl _ with }

theorem arrive_keeps (d : Device) (op : ReadOp) (records : List RawRecord) : Keeps d (d.arrive op records) := by
  unfold Device.arrive
  dsimp only
  repeat' split
  · exact readEnded_keeps d
  · exact (readEnded_keeps d).trans (ringFault_keeps _ _ _)
  · exact Device.Shrinks.keeps { Device.Shrinks.refl _ with }

theorem failRead_keeps (d : Device) (op : ReadOp) : Keeps d (d.failRead op) := by
  unfold Device.failRead
  dsimp only
  split
  · exact readEnded_keeps d
  · exact (readEnded_keeps d).trans (readFailed_keeps _ _)

end Sys2Proof.Machine
end

section
/-! Expiries, readback, edges and supervision keep the ties of the Outstanding Table (O58). -/

namespace Sys2Proof.Machine

variable {d d' : Device} {a : Slot} {e : Entry}

/-! ## Expiries of the Timing List -/

/-- The first timer leaves the list, as the only one of its owner (R66, R70). -/
theorem timing_tail_eq_withdraw {t : TimerEntry} {rest : List TimerEntry} (ht : d.timing = t :: rest)
    (hn : (d.timing.map TimerEntry.owner).Nodup) : { d with timing := rest } = d.withdraw t.owner := by
  rw [ht, List.map_cons, List.nodup_cons] at hn
  have hrest : rest.filter (fun u => u.owner != t.owner) = rest :=
    List.filter_eq_self.mpr fun u hu => bne_iff_ne.mpr fun ho => hn.1 (List.mem_map.mpr ⟨u, hu, ho⟩)
  simp [Device.withdraw, ht, hrest]

theorem setPoint_setPoint (d : Device) (p : PointId) (u v : Point) :
    (d.setPoint p u).setPoint p v = d.setPoint p v := by
  simp [Device.setPoint]

theorem setClaim_driveLevel (d : Device) (p : PointId) (l : Bool) (c : Option Slot) :
    (d.driveLevel p l).setClaim p c = d.setPoint p { d.points[p].drive d.now l with claim := c } := by
  simp [Device.setClaim, Device.driveLevel, Device.setPoint]

/-- The claimed point of a TIMED entry is not FAULTED (R18). -/
theorem Device.Tied.claimed_normal (h : d.Tied none) {p : PointId} (hc : d.points[p].claim = some a) :
    d.points[p].pstate ≠ .faulted := fun hp => by
  rw [(h.faulted p hp).2] at hc
  cases hc

/-- A timed action ends (R10, R11, R13). -/
theorem Device.Tied.finishTimed (h : d.Tied none) {b : Option Blink} (he : d.slots[a] = some e)
    (hst : e.st = .timed b) (l : Bool) : ((d.withdraw a).finishTimed a e l).Tied none := by
  have hc := (h.claims (pointOf e.record) a).mpr ⟨e, b, he, hst, rfl⟩
  obtain ⟨hg, -, -, hps, -⟩ := Point.drive_config d.points[pointOf e.record] d.now l
  rw [Device.finishTimed, setClaim_driveLevel]
  have hcut := h.cutClaim hc (v := { d.points[pointOf e.record].drive d.now l with claim := none }) rfl hg
    fun hf => absurd (hps.symm.trans hf) (h.claimed_normal hc)
  rw [← withdraw_withdraw] at hcut
  exact hcut.answer_of_cut he .done 0

/-- A BLINK goes on (R13). -/
theorem Device.Tied.stepBlink (h : d.Tied none) {b : Option Blink} (he : d.slots[a] = some e) (hst : e.st = .timed b)
    (hk : actionKindOf e.record = some .blink) (due : Time) (next : Blink) :
    ((d.withdraw a).stepBlink a e due next).Tied none := by
  have hc := (h.claims (pointOf e.record) a).mpr ⟨e, b, he, hst, rfl⟩
  have hn := h.claimed_normal hc
  obtain ⟨hg, -, -, hps, -, hclaim, -⟩ := Point.drive_config d.points[pointOf e.record] d.now next.phaseOn
  have hcut := h.cutClaim hc (v := { d.points[pointOf e.record] with claim := none }) rfl rfl fun hf => absurd hf hn
  have hpoint : (((d.setPoint (pointOf e.record) { d.points[pointOf e.record] with claim := none }).withdraw a).setSlot
      a none).points[pointOf e.record] = { d.points[pointOf e.record] with claim := none } := by
    simp
  have hbegin := hcut.begin (by rw [setSlot_slot, if_pos rfl]) (h.timed a e b he hst).1
    (e := { e with st := .timed (some next) }) rfl (by simp [timedKind, hk]) rfl (by rw [hpoint])
    (v := d.points[pointOf e.record].drive d.now next.phaseOn) (hclaim.trans hc) (by rw [hpoint]; exact hg)
    (fun hf => hn (hps.symm.trans hf)) (due + durationOf e.record)
  rw [setSlot_setSlot] at hbegin
  have hsame : (((d.setPoint (pointOf e.record) { d.points[pointOf e.record] with claim := none }).withdraw a).setSlot a
        (some { e with st := .timed (some next) })).setPoint (pointOf e.record)
          (d.points[pointOf e.record].drive d.now next.phaseOn) =
      ((d.withdraw a).driveLevel (pointOf e.record) next.phaseOn).setSlot a
        (some { e with st := .timed (some next) }) :=
    congrArg (fun x : Device => (x.withdraw a).setSlot a (some { e with st := .timed (some next) }))
      (setPoint_setPoint d _ _ _)
  rw [hsame] at hbegin
  exact hbegin

theorem finishTimed_fresh (d : Device) (a : Slot) (e : Entry) (l : Bool) : Fresh d (d.finishTimed a e l) :=
  (Fresh.of_slots rfl).trans (answer_fresh ((d.driveLevel _ l).setClaim _ none) a _ _)

theorem stepBlink_fresh (d : Device) (a : Slot) (e : Entry) (due : Time) (b : Blink) :
    Fresh d (d.stepBlink a e due b) :=
  (setSlot_fresh d a fun e' he => by cases he; simp).trans (.of_slots rfl)

theorem expireOutput_fresh (d : Device) (a : Slot) (due : Time) : Fresh d (d.expireOutput a due) := by
  unfold Device.expireOutput Device.expireBlink
  repeat' split
  · exact .refl d
  · exact finishTimed_fresh d a _ _
  · exact finishTimed_fresh d a _ _
  · exact finishTimed_fresh d a _ _
  · exact finishTimed_fresh d a _ _
  · exact stepBlink_fresh d a _ due _
  · exact stepBlink_fresh d a _ due _
  · exact .refl d
  · exact .refl d

/-- The expiry of an OUTPUT_TIMER ends or continues the TIMED entry that owns it (R71). -/
theorem expireOutput_keeps {t : TimerEntry} {rest : List TimerEntry} (ht : d.timing = t :: rest)
    (hk : t.kind = .outputTimer) (due : Time) :
    Keeps d (({ d with timing := rest } : Device).expireOutput t.owner due) := by
  refine ⟨fun h => ?_, (Fresh.of_slots rfl).trans (expireOutput_fresh { d with timing := rest } _ _)⟩
  rw [timing_tail_eq_withdraw ht h.owners]
  obtain ⟨e, he, ⟨-, b, hst⟩ | ⟨hkind, -⟩⟩ := h.timers t (ht ▸ List.mem_cons_self)
  · obtain ⟨-, htimed, -⟩ := h.timed t.owner e b he hst
    obtain ⟨hpulse, hset, hclear, hblink⟩ := expireOutput_timed (d := d.withdraw t.owner) (due := due) he hst
    unfold timedKind at htimed
    split at htimed
    next hkind => rw [hpulse hkind]; exact h.finishTimed he hst false
    next hkind => rw [hset hkind]; exact h.finishTimed he hst true
    next hkind => rw [hclear hkind]; exact h.finishTimed he hst false
    next hkind =>
      obtain ⟨progress, rfl⟩ := Option.isSome_iff_exists.mp htimed
      rw [hblink progress hkind rfl, Device.expireBlink]
      repeat' split
      · exact h.finishTimed he hst false
      · exact h.stepBlink he hst hkind due _
      · exact h.stepBlink he hst hkind due _
    all_goals cases htimed
  · rw [hk] at hkind
    cases hkind

theorem expireDeadline_fresh (d : Device) (a : Slot) : Fresh d (d.expireDeadline a) := by
  unfold Device.expireDeadline
  repeat' split
  · exact .refl d
  · exact answer_fresh (d.unwait a) _ _ _
  · exact answer_fresh (d.unwait a) _ _ _
  · exact .refl d

/-- The expiry of a DEADLINE ends the wait of the entry that owns it (R73, R74). -/
theorem expireDeadline_keeps {t : TimerEntry} {rest : List TimerEntry} (ht : d.timing = t :: rest)
    (hk : t.kind = .deadline) : Keeps d (({ d with timing := rest } : Device).expireDeadline t.owner) := by
  refine ⟨fun h => ?_, (Fresh.of_slots rfl).trans (expireDeadline_fresh { d with timing := rest } _)⟩
  rw [timing_tail_eq_withdraw ht h.owners]
  obtain ⟨e, he, ⟨hkind, -⟩ | ⟨-, hwait⟩⟩ := h.timers t (ht ▸ List.mem_cons_self)
  · rw [hk] at hkind
    cases hkind
  · have state (e' : Entry) (he' : d.slots[t.owner] = some e') : e'.st = .triggerWait ∨ e'.st = .gateWait := by
      obtain rfl := Option.some.inj (he.symm.trans he')
      simpa using hwait
    have hnot : NotTimed d.slots[t.owner] := fun e' b he' hb => by
      obtain hs | hs := state e' he' <;> cases hs.symm.trans hb
    have hunwait := (h.withdraw hnot).shrink (unwait_shrinks (d.withdraw t.owner) t.owner)
    have hloose : ((d.withdraw t.owner).unwait t.owner).Loose t.owner :=
      ⟨hnot, unwait_unlisted _ _, hunwait.unqueued fun e' y he' hy => by
        obtain hs | hs := state e' he' <;> cases hs.symm.trans hy⟩
    have he' : (d.withdraw t.owner).slots[t.owner] = some e := he
    unfold Device.expireDeadline
    rw [he']
    dsimp only
    obtain hs | hs := state e he <;> rw [hs] <;> exact hunwait.answer hloose _ _

/-! ## Readback -/

/-- A point that is found FAULTED gives up its claim (R17). -/
theorem pointFault_keeps (d : Device) (p : PointId) : Keeps d (d.pointFault p) := by
  rw [pointFault_eq]
  cases hc : d.points[p].claim with
  | none =>
    have hfault : d.Shrinks (d.setPoint p { d.points[p] with pstate := .faulted, window := none, level := false }) :=
      { Device.Shrinks.refl d with
        point := fun q => by
          rw [setPoint_point]
          split
          next hq => subst hq; exact ⟨rfl, rfl, fun _ => .inl ⟨rfl, hc⟩⟩
          · exact .refl _ }
    exact hfault.keeps.trans (Device.Shrinks.keeps { Device.Shrinks.refl _ with })
  | some a =>
    refine Keeps.trans ⟨fun h => ?_, (Fresh.of_slots rfl).trans (answer_fresh
      (d.setPoint p { d.points[p] with pstate := .faulted, window := none, level := false, claim := none }) a .cxptflt
      0)⟩
      (Device.Shrinks.keeps { Device.Shrinks.refl _ with })
    obtain ⟨e, b, he, -⟩ := (h.claims p a).mp hc
    exact (h.cutClaim hc
      (v := { d.points[p] with pstate := .faulted, window := none, level := false, claim := none }) rfl rfl
      fun _ => rfl).answer_of_cut he _ _

/-- A change of a point that keeps what the ties read. -/
theorem setPoint_shrinks {p : PointId} {v : Point} (hv : PointKept d.points[p] v) : d.Shrinks (d.setPoint p v) where
  __ := Device.Shrinks.refl d
  point q := by
    rw [setPoint_point]
    split
    next hq => subst hq; exact hv
    · exact .refl _

theorem windowEnds_keeps (d : Device) (p : PointId) : Keeps d (d.windowEnds p) := by
  have hclose : d.Shrinks (d.setPoint p { d.points[p] with window := none }) := setPoint_shrinks (.refl d.points[p])
  unfold Device.windowEnds
  split
  · exact pointFault_keeps d p
  · exact hclose.keeps

theorem senseChanges_keeps (d : Device) (p : PointId) (l : Bool) : Keeps d (d.senseChanges p l) := by
  have hsense : d.Shrinks (d.setPoint p { d.points[p] with sense := l }) := setPoint_shrinks (.refl d.points[p])
  unfold Device.senseChanges
  dsimp only
  split
  · exact hsense.keeps.trans (pointFault_keeps _ p)
  · exact hsense.keeps

/-! ## Inputs and edges -/

/-- One entry released by an edge (R109, R110). -/
theorem releaseTrigger_released (capture : Time) (h : d.Tied none) (hr : d.Ready a) (hrun : d.dstate = .run) :
    Released none a d (Device.releaseTrigger capture d a) := by
  unfold Device.releaseTrigger
  repeat' split
  · exact .refl h
  · exact h.released_answer (h.loose_of_ready hr) _ _
  · exact actionStage_released h hr hrun

theorem releaseTrigger_fresh (capture : Time) (d : Device) (a : Slot) :
    Fresh d (Device.releaseTrigger capture d a) := by
  unfold Device.releaseTrigger
  repeat' split
  · exact .refl d
  · exact answer_fresh d a _ _
  · exact (actionStage_fresh d a).1

/-- An entry taken out of the trigger waits of its input is ready (R107, R108). -/
theorem Device.Tied.ready_of_triggerWait (h : d.Tied none) {i : InputId} {v : Input}
    (ha : a ∈ d.inputs[i].waits) (hav : a ∉ v.waits) : (d.setInput i v).Ready a := by
  obtain ⟨h60, e, he, hst, hi⟩ := (h.waits.2 i).2 a ha
  refine ⟨h60, ⟨fun k hk => ?_, fun j hj => ?_⟩, e, he, .inr (.inl hst)⟩
  · obtain ⟨-, e', he', hst', -⟩ := (h.waits.1 k).2 a hk
    obtain rfl := Option.some.inj (he.symm.trans he')
    cases hst.symm.trans hst'
  · rw [setInput_input] at hj
    split at hj
    · exact hav hj
    next hji =>
      obtain ⟨-, e', he', -, hi'⟩ := (h.waits.2 j).2 a hj
      obtain rfl := Option.some.inj (he.symm.trans he')
      exact hji (hi'.symm.trans hi)

theorem releaseTriggers_keeps (i : InputId) (rise : Bool) (capture : Time) (hrun : d.dstate = .run) :
    Keeps d (d.releaseTriggers i rise capture) where
  tied h := by
    have hkept : (d.inputs[i].waits.filter fun a => !slotMatches rise d.slots[a]).Sublist d.inputs[i].waits :=
      List.filter_sublist
    refine (foldl_released (fun d a => releaseTrigger_released capture) ((h.waits.2 i).1.filter _)
      (fun a ha => ?_) (h.shrink (setInput_shrinks hkept)) hrun).1
    obtain ⟨ha, hmatch⟩ := List.mem_filter.mp ha
    refine h.ready_of_triggerWait ha fun hn => ?_
    have hother := (List.mem_filter.mp hn).2
    simp only [hmatch, Bool.not_true, Bool.false_eq_true] at hother
  fresh := (Fresh.of_slots rfl).trans (Fresh.foldl (releaseTrigger_fresh capture) _ _)

theorem edge_keeps (d : Device) (i : InputId) (capture : Time) : Keeps d (d.edge i capture) := by
  have hqualify : d.Shrinks (d.setInput i (d.inputs[i].qualify capture)) := setInput_shrinks (List.Sublist.refl _)
  unfold Device.edge
  dsimp only
  split
  next hr =>
    have hrun : (d.setInput i (d.inputs[i].qualify capture)).dstate = .run := by simpa using hr
    refine hqualify.keeps.trans ?_
    split
    · exact (pass_moves _).keeps.trans (releaseTriggers_keeps i _ capture (by simpa using hrun))
    · exact releaseTriggers_keeps i _ capture hrun
  · exact hqualify.keeps

theorem rawChange_keeps (d : Device) (i : InputId) : Keeps d (d.rawChange i) := by
  have hsample : d.Shrinks (d.setInput i d.inputs[i].sample) := setInput_shrinks (List.Sublist.refl _)
  have pending (d : Device) (t : Option Time) : Keeps d (d.setInput i { d.inputs[i] with pendingSince := t }) := by
    have hp : d.Shrinks (d.setInput i { d.inputs[i] with pendingSince := t }) := setInput_shrinks (List.Sublist.refl _)
    exact hp.keeps
  unfold Device.rawChange
  dsimp only
  repeat' split
  · exact hsample.keeps.trans (pending _ none)
  · exact hsample.keeps.trans (edge_keeps _ i _)
  · exact hsample.keeps.trans (pending _ _)

/-! ## Supervision -/

theorem lapse_keeps (d : Device) : Keeps d d.lapse := by
  have hlapse : d.Shrinks { d with sup := { d.sup with supv := .lapsed, countdown := none } } :=
    { Device.Shrinks.refl d with }
  exact (hlapse.keeps.trans (raiseAlert_keeps _ _)).trans (pass_moves _).keeps

end Sys2Proof.Machine
end

section
/-! Pools and quotas of the Outstanding Table, and the statement on the whole table (O58). -/

namespace Sys2Proof.Machine

variable {c : Instr} {s0 : DState} {d d' : Device} {a : Slot}

/-! ## Pools (R44) -/

theorem Device.PoolsKept.setSlot {v : Option Entry} (hp : d.PoolsKept)
    (hv : ∀ e, v = some e → (e.ring = 0 ↔ 60 ≤ a.val)) : (d.setSlot a v).PoolsKept := fun b e he => by
  rw [setSlot_slot] at he
  split at he
  next hb => subst hb; exact hv e he
  · exact hp b e he

/-- Every small change leaves each entry in the pool of its ring. -/
theorem Change.pools (h : Change c s0 d d') (hp : d.PoolsKept) : d'.PoolsKept := by
  cases h
  case entryState a e st he =>
    refine hp.setSlot fun e' he' => ?_
    cases he'
    exact hp a e he
  case slotFreed a => exact hp.setSlot fun e he => by cases he
  case taken r head rest a ht =>
    refine Device.PoolsKept.setSlot (d := d.setRing r _) hp fun e he => ?_
    cases he
    exact (taken?_slot ht).1
  case queue n _ | cause n _ _ | writeIssued n _ _ | writeAccepted n _ | consumed n _ _ => cases n <;> exact hp
  case halted reason _ _ _ => exact fun b e he => by simp [Device.halt] at he
  all_goals exact hp

/-! ## Quotas (R52, R57) -/

/-- What ring `r` holds after one slot is set. -/
theorem held_setSlot (d : Device) (a : Slot) (v : Option Entry) (r : RingId) :
    (d.setSlot a v).held r =
      d.held r - (if isHeldBy r d.slots[a] then 1 else 0) + (if isHeldBy r v then 1 else 0) := by
  simp only [Device.held, Device.setSlot, Vector.toList_set]
  rw [List.countP_set (by simp)]
  simp

theorem held_setSlot_le_succ (d : Device) (a : Slot) (v : Option Entry) (r : RingId) :
    (d.setSlot a v).held r ≤ d.held r + 1 := by
  rw [held_setSlot]
  split <;> split <;> omega

/-- A ring that owned the old entry or does not own the new one holds no more than before. -/
theorem held_setSlot_le {v : Option Entry} {r : RingId} (h : isHeldBy r v = true → isHeldBy r d.slots[a] = true) :
    (d.setSlot a v).held r ≤ d.held r := by
  rw [held_setSlot]
  by_cases hv : isHeldBy r v = true
  · have hpos : 0 < d.held r := List.countP_pos_iff.mpr ⟨d.slots[a], by simp, h hv⟩
    rw [if_pos hv, if_pos (h hv)]
    omega
  · rw [if_neg hv]
    omega

theorem held_of_empty (h : ∀ a : Slot, d.slots[a] = none) (r : RingId) : d.held r = 0 := by
  have hslots : d.slots = Vector.replicate 64 none := Vector.ext fun n hn => by simpa using h ⟨n, hn⟩
  rw [Device.held, hslots]
  simp [isHeldBy]

/-- Ring `r` keeps its quota, and is DISABLED only when it was. -/
def QuotaStays (r : RingId) (d d' : Device) : Prop :=
  d'.rings[r].quota = d.rings[r].quota ∧ (d'.rings[r].state = .disabled → d.rings[r].state = .disabled)

theorem setRing_ring (d : Device) (r q : RingId) (v : Ring) :
    (d.setRing r v).rings[q] = if q = r then v else d.rings[q] := by
  by_cases h : q = r
  · subst h
    simp
  · simp [h, Fin.val_inj, Ne.symm h]

theorem setRing_quotaStays {r : RingId} {v : Ring} (hq : v.quota = d.rings[r].quota)
    (hs : v.state = .disabled → d.rings[r].state = .disabled) (q : RingId) : QuotaStays q d (d.setRing r v) := by
  unfold QuotaStays
  rw [setRing_ring]
  split
  next h => subst h; exact ⟨hq, hs⟩
  · exact ⟨rfl, id⟩

theorem quotasKept_of_le (hq : d.QuotasKept) (hheld : ∀ r, d'.held r ≤ d.held r) (hring : ∀ r, QuotaStays r d d') :
    d'.QuotasKept := fun r hr => by
  obtain ⟨hle, hdisabled⟩ := hq r hr
  obtain ⟨hquota, hstate⟩ := hring r
  exact ⟨hquota ▸ (hheld r).trans hle, fun hs => Nat.le_zero.mp ((hheld r).trans_eq (hdisabled (hstate hs)))⟩

/-- A ring that holds nothing may have any quota and state. -/
theorem setRing_quotas {r : RingId} {v : Ring} (hq : d.QuotasKept) (h : r ≠ 0 → d.held r = 0) :
    (d.setRing r v).QuotasKept := fun q hr => by
  have hheld : (d.setRing r v).held q = d.held q := rfl
  rw [hheld, setRing_ring]
  split
  next hqr =>
    subst hqr
    rw [h hr]
    exact ⟨Nat.zero_le _, fun _ => rfl⟩
  · exact hq q hr

/-- A taking leaves room in its ring's quota (R53). -/
theorem takeHead_quotas {r : RingId} {head : RawRecord} {rest : List RawRecord}
    (ht : d.taken? r = some (head, rest, a)) (hq : d.QuotasKept) : (d.takeHead r a head rest).QuotasKept := by
  obtain ⟨-, -, hmay⟩ := taken?_eq_some_iff.mp ht
  intro q hr
  obtain ⟨hquota, hstate⟩ := setRing_quotaStays (d := d) (r := r)
    (v := { d.rings[r] with buf := rest, tail := (d.rings[r].tail + 1) % d.rings[r].size }) rfl id q
  by_cases hqr : q = r
  · subst hqr
    simp only [Device.ringMayTake, hr, if_false, Bool.and_eq_true, beq_iff_eq, decide_eq_true_eq] at hmay
    obtain ⟨⟨-, hactive⟩, hlt, -⟩ := hmay
    refine ⟨(held_setSlot_le_succ (d.setRing q _) a _ q).trans ?_, fun hs => ?_⟩
    · exact hquota ▸ hlt
    · cases hactive.symm.trans (hstate hs)
  · obtain ⟨hle, hdisabled⟩ := hq q hr
    have hheld : (d.takeHead r a head rest).held q ≤ d.held q :=
      held_setSlot_le (d := d.setRing r _) fun h => absurd (by simpa [isHeldBy] using h) (Ne.symm hqr)
    exact ⟨hquota ▸ hheld.trans hle, fun hs => Nat.le_zero.mp (hheld.trans_eq (hdisabled (hstate hs)))⟩

theorem dropBuffer_quotas (hq : d.QuotasKept) (r : RingId) : (d.dropBuffer r).QuotasKept :=
  quotasKept_of_le hq (fun _ => le_rfl) fun q =>
    setRing_quotaStays (d := d) (r := r) (v := { d.rings[r] with buf := [] }) rfl id q

/-- Every small change keeps each action ring within its quota, and a DISABLED one empty. -/
theorem Change.quotas (h : Change c s0 d d') (hq : d.QuotasKept) : d'.QuotasKept := by
  have ring {r : RingId} {v : Ring} (hquota : v.quota = d.rings[r].quota)
      (hs : v.state = .disabled → d.rings[r].state = .disabled) : (d.setRing r v).QuotasKept :=
    quotasKept_of_le hq (fun _ => le_rfl) (setRing_quotaStays hquota hs)
  cases h
  case entryState a e st he =>
    refine quotasKept_of_le hq (fun r => held_setSlot_le ?_) fun r => ⟨rfl, id⟩
    rw [he]
    exact id
  case slotFreed a => exact quotasKept_of_le hq (fun r => held_setSlot_le fun h => by cases h) fun r => ⟨rfl, id⟩
  case taken r head rest a ht => exact takeHead_quotas ht hq
  case queue n _ | cause n _ _ | writeIssued n _ _ | writeAccepted n _ | consumed n _ _ => cases n <;> exact hq
  case bufferDropped r => exact dropBuffer_quotas hq r
  case ringStopped r st cause _ hst _ =>
    have hnot (hs : st = .disabled) : d.rings[r].state = .disabled := by
      obtain rfl | rfl := hst <;> cases hs
    have hstop : (d.setRing r { d.rings[r] with state := st, cause := cause }).QuotasKept := ring rfl hnot
    exact dropBuffer_quotas hstop r
  case ringRestarted r st cause _ hh => exact setRing_quotas hq fun _ => hh
  case ringConfigured record _ hs => exact setRing_quotas hq fun hr => (hq _ hr).2 hs
  case produced r i _ _ => exact ring rfl id
  case arrived op records _ _ _ _ => exact ring rfl id
  case booted b _ _ _ _ => exact setRing_quotas (r := 0) hq fun hr => absurd rfl hr
  case halted reason _ _ _ =>
    have hheld := held_of_empty (d := d.halt reason) fun b => by simp [Device.halt]
    exact fun r _ => ⟨(hheld r).trans_le (Nat.zero_le _), fun _ => hheld r⟩
  all_goals exact hq

/-! ## Every command and every step -/

/-- A command that acts under a condition keeps what its act keeps. -/
theorem Kept.ite {p : Prop} [Decidable p] (h : Kept d d') : Kept d (if p then d' else d) := by
  split
  · exact h
  · exact .refl d

theorem Kept.ite_right {p : Prop} [Decidable p] (h : Kept d d') : Kept d (if p then d else d') := by
  split
  · exact .refl d
  · exact h

/-- A command that is no reset keeps the ties, and leaves no entry between two states. -/
theorem exec_kept (c : Instr) (s : State) (hr : resets c = false) :
    ∃ d, exec c s = .next { s with dev := d } ∧ Kept s.dev d := by
  cases c with
  | powerOnReset => cases hr
  | linkReset => cases hr
  | controlReset v | enable v | ic0en v | ic1en v | alerten v => exact ⟨_, rfl, (writeControl_keeps _ hr).kept⟩
  | bootReadArrival b => exact ⟨_, rfl, (bootArrival_keeps _ b).kept⟩
  | bootReadFailure how => exact ⟨_, rfl, (bootFailure_keeps _ how).kept⟩
  | bootAddressWrite half v => exact ⟨_, rfl, (writeBoot_keeps _ half v).kept⟩
  | alertWrite v => exact ⟨_, rfl, (writeAlert_keeps _ v).kept⟩
  | producerWrite v => exact ⟨_, rfl, (event_keeps (producerEffect_keeps _ v)).kept⟩
  | consumerWrite v => exact ⟨_, rfl, (writeConsumer_keeps _ v).kept⟩
  | registerWriteOther o w v => exact ⟨_, rfl, (writeRegister_keeps _ hr).kept⟩
  | set r | clear r | pulse r | delaySet r | delayClear r | blink r => exact ⟨_, rfl, takeOutput_kept _ rfl r⟩
  | note r => exact ⟨_, rfl, takeNote_kept _ r⟩
  | keepalive r => exact ⟨_, rfl, takeKeepalive_kept _ r⟩
  | unknownKind r => exact ⟨_, rfl, takeUnknown_kept _ r⟩
  | configureRing => exact ⟨_, rfl, configureRing_kept _⟩
  | configureCompletion => exact ⟨_, rfl, takeChecked_kept fun record d _ => setC1_moves d record⟩
  | definePoint =>
    refine ⟨_, rfl, takeChecked_kept fun record d hp => applyPoint_moves record fun hrun => ?_⟩
    simp [Device.adminPermitted, hrun] at hp
  | defineInput => exact ⟨_, rfl, takeChecked_kept fun record d _ => applyInput_moves d record⟩
  | defineZone => exact ⟨_, rfl, takeChecked_kept fun record d _ => applyZone_moves d record⟩
  | defineGroup => exact ⟨_, rfl, defineGroup_kept _⟩
  | setSupervision => exact ⟨_, rfl, takeChecked_kept fun record d _ => applyInterval_moves d record⟩
  | enterRun => exact ⟨_, rfl, enterRun_kept _⟩
  | enterConfigure => exact ⟨_, rfl, enterConfigure_kept _⟩
  | drainEnd | ringResetEnd => exact ⟨_, rfl, .ite (event_keeps (endOps_keeps _)).kept⟩
  | forceGroup => exact ⟨_, rfl, takeChecked_kept fun record d _ => applyForce_moves d record⟩
  | restoreSupervision => exact ⟨_, rfl, takeChecked_kept fun record d _ => applyRestore_moves d record⟩
  | clearPointFault => exact ⟨_, rfl, takeChecked_kept fun record d _ => applyClearFault_moves d record⟩
  | ringReset => exact ⟨_, rfl, ringReset_kept _⟩
  | snapshot => exact ⟨_, rfl, snapshot_kept _⟩
  | snapshotWriteAccepted | snapshotWriteFailed => exact ⟨_, rfl, (endSnapshot_keeps _ _).kept⟩
  | digest => exact ⟨_, rfl, digest_kept _⟩
  | outputTimerExpiry =>
    refine ⟨_, rfl, ?_⟩
    dsimp only
    split
    next t rest ht =>
      obtain ⟨htiming, -⟩ := dueTimer_spec _ t rest ht
      split
      next hk => exact (event_keeps (expireOutput_keeps htiming (beq_iff_eq.mp hk) _)).kept
      · exact .refl _
    · exact .refl _
  | deadlineExpiry =>
    refine ⟨_, rfl, ?_⟩
    dsimp only
    split
    next t rest ht =>
      obtain ⟨htiming, -⟩ := dueTimer_spec _ t rest ht
      split
      next hk => exact (event_keeps (expireDeadline_keeps htiming (beq_iff_eq.mp hk))).kept
      · exact .refl _
    · exact .refl _
  | settleWindowEnd p => exact ⟨_, rfl, .ite (event_keeps (windowEnds_keeps _ p)).kept⟩
  | senseChange p l => exact ⟨_, rfl, .ite_right (event_keeps (senseChanges_keeps _ p l)).kept⟩
  | rawTransition i => exact ⟨_, rfl, .ite_right (event_keeps (rawChange_keeps _ i)).kept⟩
  | edgeEvent i =>
    refine ⟨_, rfl, ?_⟩
    dsimp only
    split
    · exact .ite (event_keeps (edge_keeps _ i _)).kept
    · exact .refl _
  | supervisionLapse => exact ⟨_, rfl, .ite (event_keeps (lapse_keeps _)).kept⟩
  | coalescingDelayExpiry n => exact ⟨_, rfl, .ite (event_keeps (delayExpires_keeps _ n)).kept⟩
  | completionWriteAccepted n => exact ⟨_, rfl, .ite (event_keeps (writeAccepted_keeps _ n)).kept⟩
  | completionWriteFailed n => exact ⟨_, rfl, .ite (event_keeps (failCompletion_keeps _ n)).kept⟩
  | readArrival records =>
    refine ⟨_, rfl, ?_⟩
    dsimp only
    split
    · exact .ite (event_keeps (arrive_keeps _ _ records)).kept
    · exact .refl _
  | readFailure how =>
    refine ⟨_, rfl, ?_⟩
    dsimp only
    split
    · exact .ite (event_keeps (failRead_keeps _ _)).kept
    · exact .refl _

theorem applyReset_slot (d : Device) (cause : RCause) (a : Slot) : (d.applyReset cause).slots[a] = none := by
  simp [Device.applyReset, Device.afterReset]

/-- A reset leaves no entry, claim, timer or wait (R174). -/
theorem applyReset_kept (d : Device) (cause : RCause) : Kept d (d.applyReset cause) where
  tied _ := tied_of_empty (applyReset_slot d cause)
    (fun p => by simp [Device.applyReset, Device.afterReset, Point.atReset]) rfl
    (fun k => by simp [Device.applyReset, Device.afterReset, Group.atReset])
    (fun i => by simp [Device.applyReset, Device.afterReset, Input.atReset]) ⟨rfl, rfl⟩
  intake _ a e he := by
    rw [applyReset_slot] at he
    cases he

theorem applyReset_pools (d : Device) (cause : RCause) : (d.applyReset cause).PoolsKept := fun a e he => by
  rw [applyReset_slot] at he
  cases he

theorem applyReset_quotas (d : Device) (cause : RCause) : (d.applyReset cause).QuotasKept := fun r _ => by
  have hheld := held_of_empty (applyReset_slot d cause) r
  exact ⟨hheld.trans_le (Nat.zero_le _), fun _ => hheld⟩

theorem tick_keeps (d : Device) : Keeps d d.tick := by
  have htick : d.Shrinks d.tick := { Device.Shrinks.refl d with trigger := fun i => by simp }
  exact htick.keeps

theorem step_kept {s t : State} (hst : step s = .next t) : Kept s.dev t.dev := by
  have hexec (c : Instr) (s : State) (hst : exec c s = .next t) : Kept s.dev t.dev := by
    cases hr : resets c with
    | true =>
      obtain ⟨cause, he⟩ := exec_of_resets c s hr
      rw [he, Host.Outcome.next.injEq] at hst
      subst hst
      exact applyReset_kept _ _
    | false =>
      obtain ⟨d, he, hkept⟩ := exec_kept c s hr
      rw [he, Host.Outcome.next.injEq] at hst
      subst hst
      exact hkept
  unfold step at hst
  split at hst
  next c rest _ => exact hexec c { s with pending := rest } hst
  · unfold idle at hst
    split at hst
    · exact hexec _ _ hst
    · cases hst
      exact (tick_keeps _).kept

/-- Settles O58: pools and quotas by the small changes of a step, the ties and INTAKE by what each command keeps. -/
theorem tableKept : Obligations.TableKept := by
  refine ⟨fun s t hpools hquotas hintake hst => ⟨?_, ?_, (step_kept hst).intake hintake⟩,
    fun s t hclaims hfaulted htimers hwaits hqueues hquiet hst => ?_⟩
  · exact step_keeps applyReset_pools (fun _ h => h) (fun _ _ _ _ => Change.pools) hpools hst
  · exact step_keeps applyReset_quotas (fun _ h => h) (fun _ _ _ _ => Change.quotas) hquotas hst
  · have hwaitsEmpty (hd : s.dev.dstate ≠ .run) (k : Fin 7) : s.dev.groups[k].waits = [] := by
      obtain ⟨-, -, hgroups, -⟩ := hquiet hd
      exact (hgroups k).2
    obtain ⟨hclaims', hfaulted', htimers', hwaits', hqueues', -⟩ :=
      tied_iff.mp ((step_kept hst).tied (tied_iff.mpr ⟨hclaims, hfaulted, htimers, hwaits, hqueues, hwaitsEmpty⟩))
    exact ⟨hclaims', hfaulted', htimers', hwaits', hqueues'⟩

end Sys2Proof.Machine
end

section
/-! The expiry of a DEADLINE (R73, R74; O41). -/

namespace Sys2Proof.Machine

/-- The expiry of a DEADLINE is the end of its owner's wait, closed. -/
theorem closes_deadline {s : State} {timer : TimerEntry} {others : List TimerEntry} {x : Device}
    (hrun : s.dev.dstate = .run) (ht : s.dev.timing = timer :: others) (hk : timer.kind = .deadline)
    (hdue : timeReached s.dev.now timer.due = true)
    (hx : ({ s.dev with timing := others } : Device).expireDeadline timer.owner = x) : Closes .deadlineExpiry s x := by
  refine closes_event (f := fun d => ({ d with timing := others } : Device).expireDeadline timer.owner) ?_ hx
  simp [exec, execDeadlineExpiry, State.run, dueTimer_of_reached hrun ht hdue, hk]

/-- What the expiry does to an owner that waits for its trigger or for its gate. -/
theorem expireDeadline_waiting {d : Device} {a : Slot} {e : Entry} (he : d.slots[a] = some e) :
    (e.st = .triggerWait → d.expireDeadline a = (d.unwait a).answer a .trgtmo 0) ∧
    (e.st = .gateWait → d.expireDeadline a =
      (d.unwait a).answer a .gatetmo (BitVec.ofNat 32 d.points[pointOf e.record].group.val)) := by
  unfold Device.expireDeadline
  rw [he]
  refine ⟨fun hst => ?_, fun hst => ?_⟩
  · dsimp only
    rw [hst]
  · dsimp only
    rw [hst]

/-- Settles O41, by the wait the owner stands in. -/
theorem deadlineEndsWait : Obligations.DeadlineEndsWait := by
  intro s timer others e x hrun ht hk hdue he hx
  subst hx
  obtain ⟨htrigger, hgate⟩ := expireDeadline_waiting (d := { s.dev with timing := others }) he
  exact ⟨fun hst => closes_deadline hrun ht hk hdue (htrigger hst),
    fun hst => closes_deadline hrun ht hk hdue (hgate hst)⟩

end Sys2Proof.Machine
end

section
/-! The register window (R63, R169, R189, R195; O12). -/

namespace Sys2Proof.Machine

/-! ## Writes -/

/-- A full write elsewhere than at a register the host writes changes nothing (R195, log 18). -/
theorem writeRegister_unwritable (d : Device) {offset : BitVec 6} (v : Word)
    (h : offset ≠ 0x04 ∧ offset ≠ 0x0C ∧ offset ≠ 0x14 ∧ offset ≠ 0x18 ∧ offset ≠ 0x1C ∧ offset ≠ 0x20) :
    d.writeRegister offset 4 v = d := by
  obtain ⟨hcontrol, halert, hlo, hhi, hproducer, hconsumer⟩ := h
  unfold Device.writeRegister
  rw [if_pos rfl]
  split
  next ho => exact absurd (BitVec.eq_of_toNat_eq ho) hcontrol
  next ho => exact absurd (BitVec.eq_of_toNat_eq ho) halert
  next ho => exact absurd (BitVec.eq_of_toNat_eq ho) hlo
  next ho => exact absurd (BitVec.eq_of_toNat_eq ho) hhi
  next ho => exact absurd (BitVec.eq_of_toNat_eq ho) hproducer
  next ho => exact absurd (BitVec.eq_of_toNat_eq ho) hconsumer
  · rfl

/-! ## The interrupt request -/

/-- The request stands while an enabled cause does (R169). -/
theorem request_iff (d : Device) :
    d.request = true ↔
      (d.c0.ic = true ∧ d.control.getLsbD 2 = true) ∨ (d.c1.ic = true ∧ d.control.getLsbD 3 = true) ∨
        (d.alert ≠ 0 ∧ d.control.getLsbD 4 = true) := by
  simp [Device.request, Device.ic0en, Device.ic1en, Device.alerten, or_assoc]

theorem intxLine_iff (d : Device) :
    d.intxLine = true ↔ d.request = true ∧ d.link.msi = false ∧ d.link.intxOff = false := by
  simp [Device.intxLine, and_assoc]

/-! ## Reads -/

theorem dstateCode_lt (x : DState) : dstateCode x < 16 := by cases x <;> decide

theorem hreasonCode_lt (x : HReason) : hreasonCode x < 16 := by cases x <;> decide

theorem rcauseCode_lt (x : RCause) : rcauseCode x < 16 := by cases x <;> decide

/-- The fields of STATUS do not overlap (12.7). -/
theorem statusWord_toNat (d : Device) :
    d.statusWord.toNat =
      dstateCode d.dstate + 0x10 * hreasonCode d.hreason + 0x100 * rcauseCode d.rcause + 0x1000 * d.c0.ic.toNat +
        0x2000 * d.c1.ic.toNat + 0x8000 * d.request.toNat := by
  have hd := dstateCode_lt d.dstate
  have hh := hreasonCode_lt d.hreason
  have hr := rcauseCode_lt d.rcause
  have hbit (b : Bool) (k : Nat) : (if b then k else 0) = k * b.toNat := by cases b <;> simp
  have h0 := d.c0.ic.toNat_le
  have h1 := d.c1.ic.toNat_le
  have hq := d.request.toNat_le
  rw [Device.statusWord, BitVec.toNat_ofNat, hbit, hbit, hbit]
  exact Nat.mod_eq_of_lt (by omega)

/-- A field of a word, read off the word's number. -/
theorem extractLsb'_eq_ofNat {w : Word} {start len n : Nat} (h : w.toNat / 2 ^ start % 2 ^ len = n % 2 ^ len) :
    w.extractLsb' start len = BitVec.ofNat len n := by
  refine BitVec.eq_of_toNat_eq ?_
  rw [BitVec.extractLsb'_toNat, BitVec.toNat_ofNat, Nat.shiftRight_eq_div_pow, h]

/-- A bit of a word, read off the word's number. -/
theorem getLsbD_eq_of_toNat {w : Word} {i : Nat} {b : Bool} (h : w.toNat / 2 ^ i % 2 = b.toNat) : w.getLsbD i = b := by
  rw [← BitVec.testBit_toNat, Nat.testBit_eq_decide_div_mod_eq, h]
  cases b <;> rfl

/-- STATUS field by field (R189). -/
theorem statusWord_fields (d : Device) :
    d.statusWord.extractLsb' 0 4 = BitVec.ofNat 4 (dstateCode d.dstate) ∧
      d.statusWord.extractLsb' 4 4 = BitVec.ofNat 4 (hreasonCode d.hreason) ∧
      d.statusWord.extractLsb' 8 4 = BitVec.ofNat 4 (rcauseCode d.rcause) ∧
      d.statusWord.getLsbD 12 = d.c0.ic ∧ d.statusWord.getLsbD 13 = d.c1.ic ∧ d.statusWord.getLsbD 14 = false ∧
      d.statusWord.getLsbD 15 = d.request ∧ d.statusWord.extractLsb' 16 16 = 0 := by
  have hword := statusWord_toNat d
  have hd := dstateCode_lt d.dstate
  have hh := hreasonCode_lt d.hreason
  have hr := rcauseCode_lt d.rcause
  have h0 := d.c0.ic.toNat_le
  have h1 := d.c1.ic.toNat_le
  have hq := d.request.toNat_le
  refine ⟨extractLsb'_eq_ofNat ?_, extractLsb'_eq_ofNat ?_, extractLsb'_eq_ofNat ?_, getLsbD_eq_of_toNat ?_,
    getLsbD_eq_of_toNat ?_, getLsbD_eq_of_toNat ?_, getLsbD_eq_of_toNat ?_, extractLsb'_eq_ofNat (n := 0) ?_⟩
  case refine_6 => rw [Bool.toNat_false]; omega
  all_goals omega

/-- No register stands above CONSUMER (12.7). -/
theorem readRegister_above (d : Device) {offset : BitVec 6} (h : 0x24 ≤ offset.toNat) : d.readRegister offset = 0 := by
  unfold Device.readRegister
  split
  case h_10 => rfl
  all_goals omega

/-- The bytes of a narrow read (R195). -/
theorem readBytes_getElem? (d : Device) (offset : BitVec 6) {i width : Nat} (h : i < width) :
    (d.readBytes offset width)[i]? =
      some (byteAt (d.readRegister (BitVec.ofNat 6 (4 * (offset.toNat / 4)))) (offset.toNat % 4 + i)) := by
  rw [Device.readBytes, List.getElem?_map, List.getElem?_range h, Option.map_some]

/-- Settles O12: the writes by their offset, the request by its causes, the reads by their register. -/
theorem registerWindow : Obligations.RegisterWindow := by
  refine ⟨fun s offset width v hw => ?_, fun s offset v ho => ?_, fun s v => ⟨rfl, rfl, rfl, rfl, rfl, rfl⟩,
    fun d => ⟨request_iff d, intxLine_iff d⟩, ⟨rfl, rfl, rfl⟩,
    fun d => ⟨⟨rfl, rfl, rfl, rfl, rfl, rfl, rfl, rfl⟩, statusWord_fields d, fun _ => readRegister_above d,
      fun offset i _ width => readBytes_getElem? d offset⟩⟩
  · exact congrArg (fun d => Host.Outcome.next { s with dev := d }) (if_neg hw)
  · exact congrArg (fun d => Host.Outcome.next { s with dev := d }) (writeRegister_unwritable s.dev v ho)

end Sys2Proof.Machine
end

section
/-! Which event an empty queue's step takes: the first of those that are due, each at its own place in log 3's order
(O2). -/

namespace Sys2Proof.Machine

/-! ## The first of several events at their places -/

/-- Of the events `P`, whose places lie from `lo` up to `hi`, `o` is the one at the lowest place, or none where there is
none. No two events share that place. -/
structure TakesFirst (P : Nat → Instr → Prop) (lo hi : Nat) (o : Option Instr) : Prop where
  places : ∀ n c, P n c → lo ≤ n ∧ n < hi
  nothing : o = none → ∀ n c, ¬P n c
  first : ∀ c, o = some c → ∃ n, P n c ∧ ∀ m other, P m other → n < m ∨ n = m ∧ c = other

section
variable {P Q : Nat → Instr → Prop} {lo mid hi : Nat} {o o' : Option Instr}

theorem TakesFirst.congr (h : TakesFirst P lo hi o) (hPQ : ∀ n c, Q n c ↔ P n c) : TakesFirst Q lo hi o := by
  rw [show Q = P from funext fun n => funext fun c => propext (hPQ n c)]
  exact h

/-- One event, at its own place. -/
theorem TakesFirst.single (lo : Nat) (o : Option Instr) :
    TakesFirst (fun n c => n = lo ∧ o = some c) lo (lo + 1) o where
  places n c h := by omega
  nothing ho n c h := by simp [ho] at h
  first c hc := ⟨lo, ⟨rfl, hc⟩, fun m other h => .inr ⟨h.1.symm, Option.some.inj (hc.symm.trans h.2)⟩⟩

/-- One event at its own place, due when a test holds. -/
theorem TakesFirst.ite (lo : Nat) (test : Bool) (event : Instr) :
    TakesFirst (fun n c => n = lo ∧ test = true ∧ c = event) lo (lo + 1) (if test then some event else none) := by
  refine (TakesFirst.single lo _).congr fun n c => and_congr_right fun _ => ?_
  rw [Option.ite_none_right_eq_some, Option.some.injEq, @eq_comm _ event]

/-- Two families of events, one behind the other. -/
theorem TakesFirst.orElse (hP : TakesFirst P lo mid o) (hQ : TakesFirst Q mid hi o') (hlo : lo ≤ mid := by omega)
    (hhi : mid ≤ hi := by omega) :
    TakesFirst (fun n c => P n c ∨ Q n c) lo hi (o <|> o') where
  places n c h := by
    obtain h | h := h
    · have := hP.places n c h
      omega
    · have := hQ.places n c h
      omega
  nothing ho n c h := by
    obtain ⟨hp, hq⟩ := (Option.orElse_eq_none o o').mp ho
    exact h.elim (hP.nothing hp n c) (hQ.nothing hq n c)
  first c hc := by
    obtain hp | ⟨hp, hq⟩ := (Option.orElse_eq_some o o' c).mp hc
    · obtain ⟨n, hn, hleast⟩ := hP.first c hp
      refine ⟨n, .inl hn, fun m other h => h.elim (hleast m other) fun h => .inl ?_⟩
      have := hP.places n c hn
      have := hQ.places m other h
      omega
    · obtain ⟨n, hn, hleast⟩ := hQ.first c hq
      exact ⟨n, .inr hn, fun m other h => h.elim (fun h => absurd h (hP.nothing hp m other)) (hleast m other)⟩

section
variable {α : Type} {l : List α} {place : α → Nat}

/-- A list of events in ascending order of their places. -/
theorem TakesFirst.findSome? (g : α → Option Instr) (hasc : l.Pairwise (place · < place ·))
    (hplaces : ∀ x ∈ l, lo ≤ place x ∧ place x < hi) :
    TakesFirst (fun n c => ∃ x ∈ l, n = place x ∧ g x = some c) lo hi (l.findSome? g) where
  places n c := by
    rintro ⟨x, hx, rfl, -⟩
    exact hplaces x hx
  nothing ho n c := by
    rintro ⟨x, hx, -, hc⟩
    exact Option.some_ne_none c (hc.symm.trans (List.findSome?_eq_none_iff.mp ho x hx))
  first c hc := by
    obtain ⟨before, x, after, rfl, hx, hbefore⟩ := List.findSome?_eq_some_iff.mp hc
    refine ⟨place x, ⟨x, List.mem_append_right _ List.mem_cons_self, rfl, hx⟩, ?_⟩
    rintro m other ⟨y, hmem, rfl, hy⟩
    obtain ⟨-, hafter, -⟩ := List.pairwise_append.mp hasc
    obtain hb | hmem := List.mem_append.mp hmem
    · exact absurd (hy.symm.trans (hbefore y hb)) (Option.some_ne_none other)
    · obtain rfl | ha := List.mem_cons.mp hmem
      · exact .inr ⟨rfl, Option.some.inj (hx.symm.trans hy)⟩
      · exact .inl ((List.pairwise_cons.mp hafter).1 y ha)

/-- A list of events in ascending order of their places, each due when it passes a test. -/
theorem TakesFirst.find? (test : α → Bool) (f : α → Instr) (hasc : l.Pairwise (place · < place ·))
    (hplaces : ∀ x ∈ l, lo ≤ place x ∧ place x < hi) :
    TakesFirst (fun n c => ∃ x ∈ l, n = place x ∧ test x = true ∧ c = f x) lo hi ((l.find? test).map f) := by
  rw [List.find?_eq_findSome?_guard, List.map_findSome?]
  refine (TakesFirst.findSome? _ hasc hplaces).congr fun n c => exists_congr fun x => ?_
  simp [Option.map_eq_some_iff, Option.guard_eq_some_iff, @eq_comm _ (f x)]

end

theorem TakesFirst.eq_none_iff (h : TakesFirst P lo hi o) : o = none ↔ ∀ n c, ¬P n c := by
  refine ⟨h.nothing, fun hnone => Option.eq_none_iff_forall_ne_some.mpr fun c hc => ?_⟩
  obtain ⟨n, hn, -⟩ := h.first c hc
  exact hnone n c hn

theorem TakesFirst.eq_some_iff (h : TakesFirst P lo hi o) {c : Instr} :
    o = some c ↔ ∃ n, P n c ∧ ∀ m other, P m other → n ≤ m := by
  refine ⟨fun hc => ?_, fun ⟨n, hn, hleast⟩ => ?_⟩
  · obtain ⟨n, hn, hfirst⟩ := h.first c hc
    exact ⟨n, hn, fun m other hm => (hfirst m other hm).elim Nat.le_of_lt fun h => h.1.le⟩
  · cases ho : o with
    | none => exact absurd hn (h.nothing ho n c)
    | some c' =>
      obtain ⟨n', hn', hfirst⟩ := h.first c' ho
      have hle := hleast n' c' hn'
      obtain hlt | ⟨-, rfl⟩ := hfirst n c hn
      · omega
      · rfl

end

/-! ## The events that are due, place by place -/

theorem dueReached_iff (now : Time) (o : Option Time) :
    dueReached now o = true ↔ ∃ due, o = some due ∧ timeReached now due = true := by
  cases o <;> simp [dueReached]

/-- In RUN the first entry of the Timing List is due when its time is reached (R70, R77). -/
theorem dueTimer_eq_some_iff (d : Device) (t : TimerEntry) (rest : List TimerEntry) :
    d.dueTimer = some (t, rest) ↔
      d.timing = t :: rest ∧ timeReached d.now t.due = true ∧ d.dstate = .run := by
  refine ⟨fun h => ?_, fun ⟨ht, hdue, hrun⟩ => dueTimer_of_reached hrun ht hdue⟩
  obtain ⟨ht, hrun⟩ := dueTimer_spec d t rest h
  refine ⟨ht, ?_, hrun⟩
  by_contra hdue
  simp [Device.dueTimer, ht, hdue] at h

/-- The first entry of the Timing List expires by its kind (R70). -/
theorem dueExpiry_eq_map (d : Device) :
    d.dueExpiry =
      d.dueTimer.map (fun x => if x.1.kind = .outputTimer then Instr.outputTimerExpiry else .deadlineExpiry) := by
  unfold Device.dueExpiry
  cases d.dueTimer with
  | none => rfl
  | some x =>
    obtain ⟨⟨owner, kind, due⟩, rest⟩ := x
    cases kind <;> rfl

/-- The lapse is due when the countdown's time is reached while SUPV is OK (R127). -/
theorem lapseDue_iff (d : Device) :
    d.lapseDue = true ↔
      ∃ due, d.sup.supv = .ok ∧ d.sup.countdown = some due ∧ timeReached d.now due = true := by
  simp [Device.lapseDue, dueReached_iff]

theorem booting?_eq_some_iff (d : Device) (op : BootRead) :
    d.booting? = some op ↔ d.dstate = .booting ∧ d.bootRead = some op := by
  simp [Device.booting?]

/-- The 4 ms limits as two events, the read in flight before the boot read (R145, R177). -/
theorem dueTimeout_eq_orElse (d : Device) :
    d.dueTimeout =
      ((if dueReached d.now (d.channel.map (fun op => op.issued + readTimeoutTicks)) then
          some (.readFailure .timeout) else none) <|>
        (if dueReached d.now (d.booting?.map (fun op => op.issued + readTimeoutTicks)) then
          some (.bootReadFailure .timeout) else none)) := by
  unfold Device.dueTimeout
  split <;> rfl

/-! ## Each family of events at its places -/

/-- The first timer's expiry has place 0 (R70). -/
theorem dueExpiry_first (d : Device) :
    TakesFirst (fun n c => ∃ (t : TimerEntry) (rest : List TimerEntry), d.timing = t :: rest ∧
      timeReached d.now t.due = true ∧ d.dstate = .run ∧ n = 0 ∧
      c = if t.kind = .outputTimer then .outputTimerExpiry else .deadlineExpiry) 0 1 d.dueExpiry := by
  refine (TakesFirst.single 0 d.dueExpiry).congr fun n c => ?_
  rw [dueExpiry_eq_map, Option.map_eq_some_iff, Prod.exists]
  simp only [dueTimer_eq_some_iff, @eq_comm _ _ c]
  grind

/-- The ends of settle windows have the places from 1, by point (R16). -/
theorem dueWindow_first (d : Device) :
    TakesFirst (fun n c => ∃ (p : PointId) (due : Time), d.points[p].window = some due ∧
      timeReached d.now due = true ∧ n = 1 + p.val ∧ c = .settleWindowEnd p) 1 65 d.dueWindow := by
  refine (TakesFirst.find? (place := fun p : PointId => 1 + p.val) _ _ ?_ ?_).congr fun n c => ?_
  · exact (List.pairwise_lt_finRange 64).imp fun h => by omega
  · omega
  · simp only [allPoints, List.mem_finRange, true_and, dueReached_iff]
    grind

/-- The debounce intervals have the places from 65, by input; DEBOUNCE counts milliseconds of 100 ticks (R65, R102). -/
theorem dueEdge_first (d : Device) :
    TakesFirst (fun n c => ∃ (i : InputId) (since : Time), d.inputs[i].pendingSince = some since ∧
      timeReached d.now (since + BitVec.ofNat 32 (d.inputs[i].debounce.toNat * 100)) = true ∧ n = 65 + i.val ∧
      c = .edgeEvent i) 65 97 d.dueEdge := by
  refine (TakesFirst.find? (place := fun i : InputId => 65 + i.val) _ _ ?_ ?_).congr fun n c => ?_
  · exact (List.pairwise_lt_finRange 32).imp fun h => by omega
  · omega
  · simp only [List.mem_finRange, true_and, dueReached_iff, Option.map_eq_some_iff, Input.interval, ticksPerMs]
    grind

/-- The supervision lapse has place 97 (R127). -/
theorem dueLapse_first (d : Device) :
    TakesFirst (fun n c => ∃ due : Time, d.sup.supv = .ok ∧ d.sup.countdown = some due ∧
      timeReached d.now due = true ∧ n = 97 ∧ c = .supervisionLapse) 97 98 d.dueLapse := by
  refine (TakesFirst.ite 97 d.lapseDue .supervisionLapse).congr fun n c => ?_
  rw [lapseDue_iff]
  grind

/-- The coalescing delays of C0 and C1 have places 98 and 99 (R167). -/
theorem dueDelay_first (d : Device) :
    TakesFirst (fun n c => ∃ (m : CRingId) (due : Time), (d.cring m).countdown = some due ∧
      timeReached d.now due = true ∧ n = (if m = .c0 then 98 else 99) ∧ c = .coalescingDelayExpiry m)
      98 100 d.dueDelay := by
  refine (TakesFirst.find? (place := fun m : CRingId => if m = .c0 then 98 else 99) _ _ ?_ ?_).congr fun n c => ?_
  · decide
  · decide
  · have hmem (m : CRingId) : m ∈ [CRingId.c0, CRingId.c1] := by cases m <;> decide
    simp only [hmem, true_and, dueReached_iff]
    grind

/-- The 4 ms limits of the read in flight and of the boot read have places 100 and 101 (R145, R177). -/
theorem dueTimeout_first (d : Device) :
    TakesFirst (fun n c =>
      (∃ op : ReadOp, d.channel = some op ∧ timeReached d.now (op.issued + 400) = true ∧ n = 100 ∧
        c = .readFailure .timeout) ∨
      (∃ op : BootRead, d.dstate = .booting ∧ d.bootRead = some op ∧
        timeReached d.now (op.issued + 400) = true ∧ n = 101 ∧ c = .bootReadFailure .timeout))
      100 102 d.dueTimeout := by
  rw [dueTimeout_eq_orElse]
  refine ((TakesFirst.ite 100 _ _).orElse (TakesFirst.ite 101 _ _)).congr fun n c => ?_
  simp only [dueReached_iff, Option.map_eq_some_iff, booting?_eq_some_iff, readTimeoutTicks]
  grind

/-- The takings have the places from 102, by ring (R53). -/
theorem dueTaking_first (d : Device) :
    TakesFirst (fun n c => ∃ (r : RingId) (head : RawRecord) (rest : List RawRecord) (a : Slot),
      d.taken? r = some (head, rest, a) ∧ n = 102 + r.val ∧
      c = if r = 0 then adminCommand (adminKindOf head) else actionCommand r (actionKindOf head))
      102 107 d.dueTaking := by
  refine (TakesFirst.findSome? (place := fun r : RingId => 102 + r.val) _ ?_ ?_).congr fun n c => ?_
  · exact (List.pairwise_lt_finRange 5).imp fun h => by omega
  · omega
  · simp only [List.mem_finRange, true_and, Option.map_eq_some_iff, Prod.exists, takingCommand]
    grind

/-! ## The step with nothing waiting -/

/-- The due command is the first of the events that are due, in log 3's order. -/
theorem dueCommand_first (d : Device) : TakesFirst d.DueEvent 0 107 d.dueCommand := by
  have h := (dueExpiry_first d).orElse <| (dueWindow_first d).orElse <| (dueEdge_first d).orElse <|
    (dueLapse_first d).orElse <| (dueDelay_first d).orElse <| (dueTimeout_first d).orElse <| dueTaking_first d
  refine h.congr fun n c => ?_
  unfold Device.DueEvent
  rw [or_assoc]

/-- No command stops the block or touches the queue. -/
theorem exec_goes_on (c : Instr) (s : State) : ∃ d, exec c s = .next { s with dev := d } := by
  cases hr : resets c with
  | true =>
    obtain ⟨cause, h⟩ := exec_of_resets c s hr
    exact ⟨_, h⟩
  | false =>
    obtain ⟨d, h, -⟩ := exec_changes c s hr
    exact ⟨d, h⟩

/-- With nothing waiting a step is the due command, or a tick. -/
theorem step_nothing_waiting (d : Device) :
    (∀ c, d.dueCommand = some c → step ⟨d, []⟩ = exec c ⟨d, []⟩) ∧
      (d.dueCommand = none → step ⟨d, []⟩ = .next ⟨d.tick, []⟩) := by
  refine ⟨fun c h => ?_, fun h => ?_⟩
  · simp only [step, idle, h]
  · simp only [step, idle, h]

/-- Settles O2: every command goes on, and the due command is the first of the events that are due. -/
theorem commandsGoOnAndTimeTicks : Obligations.CommandsGoOnAndTimeTicks :=
  ⟨exec_goes_on, fun d => (step_nothing_waiting d).2, fun d => (step_nothing_waiting d).1,
    fun d _ => (dueCommand_first d).eq_some_iff, fun d => (dueCommand_first d).eq_none_iff⟩

end Sys2Proof.Machine
end

section
/-! What the value of a group is read from, and what a pass does to the gates (R80, R81, R85; O50). -/

namespace Sys2Proof.Machine

variable {d d' d'' : Device}

/-! ## Literals and values -/

theorem literalTrue_input (d : Device) (i : InputId) (neg : Bool) :
    d.literalTrue (.input i neg) = true ↔ d.inputs[i].qualified = !neg := by
  cases neg <;> simp [Device.literalTrue]

theorem literalTrue_gate (d : Device) (g : Fin 8) (neg : Bool) :
    d.literalTrue (.gate g neg) = true ↔ d.gateOpen g = !neg := by
  cases neg <;> simp [Device.literalTrue]

theorem literalTrue_supok (d : Device) (neg : Bool) :
    d.literalTrue (.supok neg) = true ↔ (if d.sup.supv = .lapsed then neg = true else neg = false) := by
  cases neg <;> simp [Device.literalTrue, Device.supok]

/-- A term is true when the literals of its four slots are (R81). -/
theorem termTrue_iff (d : Device) (g : Group) (t : Nat) :
    d.termTrue g t = true ↔ ∀ i : Fin 16, i.val / 4 = t → d.literalTrue g.lits[i] = true := by
  have slot (i : Fin 16) : g.lits.toList.getD i.val .unused = g.lits[i] := by
    simp [List.getD_eq_getElem?_getD]
  simp only [Device.termTrue, List.all_eq_true, List.mem_range]
  constructor
  · intro h i hi
    have hslot := h (i.val % 4) (Nat.mod_lt _ (by omega))
    rwa [← hi, Nat.div_add_mod, slot i] at hslot
  · intro h s hs
    by_cases ht : 4 * t + s < 16
    · rw [slot ⟨4 * t + s, ht⟩]
      exact h ⟨4 * t + s, ht⟩ (by simp only; omega)
    · rw [List.getD_eq_default _ _ (by simpa using ht)]
      rfl

/-- The value of a group, term by term and literal by literal (R81). -/
theorem groupValue_iff (d : Device) (k : Fin 7) :
    d.groupValue k = true ↔
      d.groups[k].force = false ∧
        ∃ t : Nat, t < d.groups[k].terms ∧
          ∀ i : Fin 16, i.val / 4 = t → d.literalTrue d.groups[k].lits[i] = true := by
  simp only [Device.groupValue, Bool.and_eq_true, List.any_eq_true, List.mem_range, termTrue_iff, Bool.not_eq_true']
  exact and_comm

/-- A literal reads the level, the gate or the supervision it names. -/
theorem literalTrue_congr {l : Literal}
    (hi : ∀ i neg, l = .input i neg → d'.inputs[i].qualified = d.inputs[i].qualified)
    (hg : ∀ g neg, l = .gate g neg → d'.gateOpen g = d.gateOpen g) (hs : d'.supok = d.supok) :
    d'.literalTrue l = d.literalTrue l := by
  cases l with
  | unused => rfl
  | input i neg => simp only [Device.literalTrue, hi i neg rfl]
  | gate g neg => simp only [Device.literalTrue, hg g neg rfl]
  | supok neg => simp only [Device.literalTrue, hs]

/-- A group has the same expression and the same FORCE. -/
def Group.SameExpr (g g' : Group) : Prop := g'.terms = g.terms ∧ g'.lits = g.lits ∧ g'.force = g.force

theorem Group.SameExpr.refl (g : Group) : g.SameExpr g := ⟨rfl, rfl, rfl⟩

theorem Group.SameExpr.trans {g g' g'' : Group} (h : g.SameExpr g') (h' : g'.SameExpr g'') : g.SameExpr g'' :=
  ⟨h'.1.trans h.1, h'.2.1.trans h.2.1, h'.2.2.trans h.2.2⟩

/-- The value of a group depends on its expression, its FORCE and what its literals read. -/
theorem groupValue_congr {k : Fin 7} (hg : d.groups[k].SameExpr d'.groups[k])
    (hl : ∀ i : Fin 16, d'.literalTrue d.groups[k].lits[i] = d.literalTrue d.groups[k].lits[i]) :
    d'.groupValue k = d.groupValue k := by
  obtain ⟨hterms, hlits, hforce⟩ := hg
  rw [Bool.eq_iff_iff, groupValue_iff, groupValue_iff, hterms, hlits, hforce]
  simp only [hl]

theorem Device.GatesOrdered.of_lits (ho : d.GatesOrdered) (h : ∀ k : Fin 7, d'.groups[k].lits = d.groups[k].lits) :
    d'.GatesOrdered := fun k s g neg hl => ho k s g neg (by rw [← h k]; exact hl)

/-! ## What the gates and their values are read from -/

/-- A group but for its wait list. -/
def Group.base (g : Group) : Group := { g with waits := [] }

theorem Group.base_eq_iff {g g' : Group} : g'.base = g.base ↔ g.SameExpr g' ∧ g'.gate = g.gate := by
  simp only [Group.base, Group.SameExpr, Group.mk.injEq, and_assoc, and_true]

/-- The device state, the gates, and what the values of the groups are read from: expressions, FORCE flags, qualified
levels and SUPOK (R80, R81). -/
structure GateView where
  dstate : DState
  groups : Vector Group 7
  levels : Vector Bool 32
  supok : Bool

/-- The gates of a device and what they follow. -/
def Device.gateView (d : Device) : GateView :=
  { dstate := d.dstate, groups := d.groups.map Group.base, levels := d.inputs.map Input.qualified, supok := d.supok }

theorem gateView_eq_iff :
    d'.gateView = d.gateView ↔
      d'.dstate = d.dstate ∧ (∀ k : Fin 7, d.groups[k].SameExpr d'.groups[k] ∧ d'.groups[k].gate = d.groups[k].gate) ∧
        (∀ i : InputId, d'.inputs[i].qualified = d.inputs[i].qualified) ∧ d'.supok = d.supok := by
  simp only [Device.gateView, GateView.mk.injEq, Vector.ext_iff, Vector.getElem_map, Group.base_eq_iff, Fin.forall_iff,
    Fin.getElem_fin]

theorem gateView_of_fields (hd : d'.dstate = d.dstate) (hg : d'.groups = d.groups) (hi : d'.inputs = d.inputs)
    (hs : d'.sup = d.sup) : d'.gateView = d.gateView := by
  simp only [Device.gateView, Device.supok, hd, hg, hi, hs]

/-- A group set to one that differs in its wait list alone. -/
theorem setGroup_gateView {k : Fin 7} {v : Group} (hv : v.base = d.groups[k].base) :
    (d.setGroup k v).gateView = d.gateView := by
  refine gateView_eq_iff.mpr ⟨rfl, fun j => Group.base_eq_iff.mp ?_, fun _ => rfl, rfl⟩
  rw [setGroup_group]
  split
  next hj => rw [hj, hv]
  · rfl

/-- An input set to one of the same qualified level. -/
theorem setInput_gateView {i : InputId} {v : Input} (hv : v.qualified = d.inputs[i].qualified) :
    (d.setInput i v).gateView = d.gateView := by
  refine gateView_eq_iff.mpr ⟨rfl, fun _ => ⟨.refl _, rfl⟩, fun j => ?_, rfl⟩
  rw [setInput_input]
  split
  next hj => rw [hj, hv]
  · rfl

theorem joinGate_gateView (d : Device) (g : Fin 8) (a : Slot) : (d.joinGate g a).gateView = d.gateView := by
  unfold Device.joinGate
  split
  · rfl
  · exact setGroup_gateView (by rfl)

theorem answer_gateView (d : Device) (a : Slot) (st : Status) (x : Word) :
    (d.answer a st x).gateView = d.gateView := gateView_of_fields (by simp) (by simp) (by simp) (by simp)

theorem setEntryState_gateView (d : Device) (a : Slot) (st : EntryState) :
    (d.setEntryState a st).gateView = d.gateView := gateView_of_fields (by simp) (by simp) (by simp) (by simp)

theorem claimCheck_gateView (d : Device) (a : Slot) (e : Entry) : (d.claimCheck a e).gateView = d.gateView :=
  gateView_of_fields (by simp) (by simp) (by simp) (by simp)

/-- The action stage changes a group's wait list at most (R4). -/
theorem actionStage_gateView (d : Device) (a : Slot) : (d.actionStage a).gateView = d.gateView := by
  unfold Device.actionStage Device.gateCheck
  repeat' split
  · rfl
  · exact answer_gateView d a _ _
  · exact (joinGate_gateView _ _ a).trans (setEntryState_gateView d a _)
  · exact answer_gateView d a _ _
  · exact claimCheck_gateView d a _

theorem releaseAll_gateView (d : Device) (l : List Slot) : (d.releaseAll l).gateView = d.gateView :=
  foldl_field (g := Device.gateView) d (fun x a => actionStage_gateView (x.withdraw a) a) l

/-- The value of a group follows from the view (R81). -/
theorem groupValue_of_gateView (h : d'.gateView = d.gateView) (k : Fin 7) : d'.groupValue k = d.groupValue k := by
  obtain ⟨hdstate, hgroups, hlevels, hsupok⟩ := gateView_eq_iff.mp h
  refine groupValue_congr (hgroups k).1 fun _ => literalTrue_congr (fun i _ _ => hlevels i) (fun g _ _ => ?_) hsupok
  cases g using Fin.cases with
  | zero => simp only [Device.gateOpen, dif_pos, hdstate]
  | succ g => rw [gateOpen_succ, gateOpen_succ, (hgroups g).2]

/-! ## A turn -/

/-- What a pass leaves beside the gates: the device state, every expression and FORCE, the levels and the
supervision (R85). -/
structure PassFrame (d d' : Device) : Prop where
  dstate : d'.dstate = d.dstate
  expr : ∀ k : Fin 7, d.groups[k].SameExpr d'.groups[k]
  inputs : d'.inputs = d.inputs
  sup : d'.sup = d.sup

theorem PassFrame.refl (d : Device) : PassFrame d d := ⟨rfl, fun _ => .refl _, rfl, rfl⟩

theorem PassFrame.trans (h : PassFrame d d') (h' : PassFrame d' d'') : PassFrame d d'' :=
  ⟨h'.dstate.trans h.dstate, fun k => (h.expr k).trans (h'.expr k), h'.inputs.trans h.inputs, h'.sup.trans h.sup⟩

/-- An opening sets its gate and changes no more of a group than a wait list (R89, R90). -/
theorem openGroup_frame (d : Device) (k : Fin 7) :
    PassFrame d (d.openGroup k) ∧
      ∀ j : Fin 7, (d.openGroup k).groups[j].gate = if j = k then true else d.groups[j].gate := by
  obtain ⟨-, hreleased, -⟩ := gateView_eq_iff.mp
    (releaseAll_gateView (d.setGroup k { d.groups[k] with gate := true, waits := [] }) d.groups[k].waits)
  have hset (j : Fin 7) := setGroup_group d k j { d.groups[k] with gate := true, waits := [] }
  refine ⟨⟨openGroup_dstate d k, fun j => .trans ?_ (hreleased j).1, ?_, ?_⟩, fun j => (hreleased j).2.trans ?_⟩
  · rw [hset j]
    split
    next hj => subst hj; exact .refl _
    · exact .refl _
  · exact foldl_field (g := Device.inputs) _ (fun x a => Device.actionStage_inputs (x.withdraw a) a) _
  · exact foldl_field (g := Device.sup) _ (fun x a => Device.actionStage_sup (x.withdraw a) a) _
  · rw [hset j]
    split <;> rfl

/-- A closure clears its gate and changes no more of a group (R86, R87). -/
theorem closeGroup_frame (d : Device) (k : Fin 7) :
    PassFrame d (d.closeGroup k) ∧
      ∀ j : Fin 7, (d.closeGroup k).groups[j].gate = if j = k then false else d.groups[j].gate := by
  obtain ⟨hgroups, hinputs, -, hsup, -, hdstate⟩ := closeGroup_fields d k
  refine ⟨⟨hdstate, fun j => ?_, hinputs, hsup⟩, fun j => ?_⟩
  · rw [hgroups j]
    split <;> exact .refl _
  · rw [hgroups j]
    split <;> rfl

/-- A turn sets the gate of its group to the group's value and no other gate (R85). -/
theorem passTurn_frame (d : Device) (k : Fin 7) :
    PassFrame d (d.passTurn k) ∧
      ∀ j : Fin 7, (d.passTurn k).groups[j].gate = if j = k then d.groupValue k else d.groups[j].gate := by
  by_cases hsame : d.groupValue k = d.groups[k].gate
  · rw [Device.passTurn, if_pos hsame]
    refine ⟨.refl d, fun j => ?_⟩
    split
    next hj => subst hj; exact hsame.symm
    · rfl
  · rw [Device.passTurn, if_neg hsame]
    cases hv : d.groupValue k
    · exact closeGroup_frame d k
    · exact openGroup_frame d k

/-! ## The pass -/

/-- The gate of a group stands at the group's value. -/
def Device.SettledAt (d : Device) (k : Fin 7) : Prop := d.groups[k].gate = d.groupValue k

/-- A turn leaves the value of its own group and of every lower one, whose literals name lower groups still (R80). -/
theorem passTurn_groupValue (ho : d.GatesOrdered) {j k : Fin 7} (hjk : j ≤ k) :
    (d.passTurn k).groupValue j = d.groupValue j := by
  obtain ⟨hframe, hgate⟩ := passTurn_frame d k
  refine groupValue_congr (hframe.expr j) fun s => literalTrue_congr (fun i _ _ => ?_) (fun g neg hl => ?_) ?_
  · rw [hframe.inputs]
  · have hlower := ho j s g neg hl
    cases g using Fin.cases with
    | zero => simp only [Device.gateOpen, dif_pos, hframe.dstate]
    | succ g =>
      have hgk : g ≠ k := by
        rintro rfl
        simp only [Fin.val_succ] at hlower
        omega
      rw [gateOpen_succ, gateOpen_succ, hgate, if_neg hgk]
  · rw [Device.supok, Device.supok, hframe.sup]

theorem passTurn_settles (ho : d.GatesOrdered) (k : Fin 7) : (d.passTurn k).SettledAt k := by
  rw [Device.SettledAt, passTurn_groupValue ho le_rfl, (passTurn_frame d k).2 k, if_pos rfl]

theorem passTurn_keepsLower (ho : d.GatesOrdered) {j k : Fin 7} (hjk : j < k) (hj : d.SettledAt j) :
    (d.passTurn k).SettledAt j := by
  rw [Device.SettledAt, passTurn_groupValue ho hjk.le, (passTurn_frame d k).2 j, if_neg hjk.ne]
  exact hj

theorem turns_frame (l : List (Fin 7)) (d : Device) : PassFrame d (l.foldl Device.passTurn d) := by
  induction l generalizing d with
  | nil => exact .refl d
  | cons k l ih => exact (passTurn_frame d k).1.trans (ih _)

/-- The turns that remain settle their groups and keep those done settled (R85). -/
theorem turns_settle {done rest : List (Fin 7)} (hall : List.finRange 7 = done ++ rest) (ho : d.GatesOrdered)
    (hdone : ∀ j ∈ done, d.SettledAt j) (j : Fin 7) : (rest.foldl Device.passTurn d).SettledAt j := by
  induction rest generalizing done d with
  | nil => exact hdone j (by rw [← List.append_nil done, ← hall]; exact List.mem_finRange j)
  | cons k rest ih =>
    have hlower : ∀ i ∈ done, i < k := by
      have hasc := List.pairwise_lt_finRange 7
      rw [hall, List.pairwise_append] at hasc
      obtain ⟨-, -, hbefore⟩ := hasc
      exact fun i hi => hbefore i hi k List.mem_cons_self
    refine ih (done := done ++ [k]) (by rw [hall, List.append_assoc, List.singleton_append])
      (ho.of_lits fun i => ((passTurn_frame d k).1.expr i).2.1) fun i hi => ?_
    obtain hi | hi := List.mem_append.mp hi
    · exact passTurn_keepsLower ho (hlower i hi) (hdone i hi)
    · rw [List.mem_singleton.mp hi]
      exact passTurn_settles ho k

/-- A pass in RUN is the turns of G1 to G7 (R85). -/
theorem pass_of_run (hrun : d.dstate = .run) : d.pass = (List.finRange 7).foldl Device.passTurn d :=
  if_pos (by rw [hrun]; rfl)

/-- Outside RUN there is no pass (R84). -/
theorem pass_of_not_run (hrun : d.dstate ≠ .run) : d.pass = d := if_neg (by simpa using hrun)

theorem pass_frame (d : Device) : PassFrame d d.pass := by
  by_cases hrun : d.dstate = .run
  · rw [pass_of_run hrun]
    exact turns_frame _ d
  · rw [pass_of_not_run hrun]
    exact .refl d

/-- A pass settles every gate (R85). -/
theorem pass_gatesSettled (ho : d.GatesOrdered) : d.pass.GatesSettled := fun hrun k => by
  have hrun' : d.dstate = .run := (pass_dstate d).symm.trans hrun
  rw [pass_of_run hrun']
  exact turns_settle (done := []) rfl ho (by simp) k

/-- Settles O50: the turns settle the gates one after another, as a group's literals name lower groups. -/
theorem passSettlesGates : Obligations.PassSettlesGates := by
  refine ⟨fun d hrun ho => ?_, groupValue_iff,
    fun d => ⟨rfl, literalTrue_input d, literalTrue_gate d, literalTrue_supok d⟩,
    fun d => ⟨by simp [Device.gateOpen], gateOpen_succ d⟩, fun d => pass_of_run, fun d => pass_of_not_run⟩
  have hframe := pass_frame d
  have hrun' : d.pass.dstate = .run := (pass_dstate d).trans hrun
  exact ⟨pass_gatesSettled ho hrun', hframe.expr, hframe.inputs, hframe.sup, hrun'⟩

end Sys2Proof.Machine
end

section
/-! Operations that leave the gates settled: those that change neither a gate nor what it follows, and those that end
with a pass (R80, R81, R85; O57). -/

namespace Sys2Proof.Machine

variable {d d' d'' : Device}

/-! ## What an operation keeps -/

/-- A block left in RUN has the gates it had, and what they follow. -/
def Steady (d d' : Device) : Prop := d'.dstate = .run → d'.gateView = d.gateView

theorem Steady.of_view (h : d'.gateView = d.gateView) : Steady d d' := fun _ => h

theorem Steady.of_not_run (h : d'.dstate ≠ .run) : Steady d d' := fun hrun => absurd hrun h

theorem Steady.refl (d : Device) : Steady d d := .of_view rfl

theorem Steady.trans (h : Steady d d') (h' : Steady d' d'') : Steady d d'' := fun hrun => by
  have hview := h' hrun
  exact hview.trans (h ((gateView_eq_iff.mp hview).1.symm.trans hrun))

theorem Device.GatesOrdered.of_view (ho : d.GatesOrdered) (h : d'.gateView = d.gateView) : d'.GatesOrdered := by
  obtain ⟨-, hgroups, -⟩ := gateView_eq_iff.mp h
  refine ho.of_lits fun k => ?_
  obtain ⟨⟨-, hlits, -⟩, -⟩ := hgroups k
  exact hlits

theorem Device.GatesSettled.of_view (hs : d.GatesSettled) (h : d'.gateView = d.gateView) : d'.GatesSettled :=
  fun hrun k => by
    obtain ⟨hdstate, hgroups, -⟩ := gateView_eq_iff.mp h
    rw [(hgroups k).2, groupValue_of_gateView h, hs (hdstate.symm.trans hrun) k]

/-- Settled gates stay settled, when GATE literals name lower groups. -/
def KeepsGates (d d' : Device) : Prop := d.GatesOrdered → d.GatesSettled → d'.GatesSettled

theorem Steady.keepsGates (h : Steady d d') : KeepsGates d d' := fun _ hs hrun => hs.of_view (h hrun) hrun

theorem keepsGates_of_view (h : d'.gateView = d.gateView) : KeepsGates d d' := (Steady.of_view h).keepsGates

theorem KeepsGates.of_not_run (h : d'.dstate ≠ .run) : KeepsGates d d' := fun _ _ hrun => absurd hrun h

theorem KeepsGates.thenSteady (h : KeepsGates d d') (h' : Steady d' d'') : KeepsGates d d'' := fun ho hs hrun =>
  (h ho hs).of_view (h' hrun) hrun

theorem KeepsGates.thenView (h : KeepsGates d d') (h' : d''.gateView = d'.gateView) : KeepsGates d d'' :=
  h.thenSteady (.of_view h')

theorem KeepsGates.afterView (hv : d'.gateView = d.gateView) (h : KeepsGates d' d'') : KeepsGates d d'' := fun ho hs =>
  h (ho.of_view hv) (hs.of_view hv)

/-- A pass settles the gates, whatever came before it but a new expression (R85). -/
theorem keepsGates_pass (h : ∀ k : Fin 7, d'.groups[k].lits = d.groups[k].lits) : KeepsGates d d'.pass :=
  fun ho _ => pass_gatesSettled (ho.of_lits h)

theorem KeepsGates.ite {p : Prop} [Decidable p] (h : p → KeepsGates d d') (h' : ¬p → KeepsGates d d'') :
    KeepsGates d (if p then d' else d'') := by
  split
  next hp => exact h hp
  next hp => exact h' hp

/-! ## Entries cancelled -/

theorem unwait_gateView (d : Device) (a : Slot) : (d.unwait a).gateView = d.gateView :=
  gateView_eq_iff.mpr ⟨rfl, fun k => by simp [Device.unwait, Group.SameExpr], fun i => by simp [Device.unwait], rfl⟩

theorem cancelEntry_gateView (d : Device) (a : Slot) (st : Status) : (d.cancelEntry a st).gateView = d.gateView := by
  unfold Device.cancelEntry
  split
  · rfl
  · split
    · rw [answer_gateView, unwait_gateView]
      split <;> rfl
    · rfl

theorem cancelRing_gateView (d : Device) (r : RingId) (st : Status) : (d.cancelRing r st).gateView = d.gateView :=
  foldl_field (g := Device.gateView) d (fun d a => by split; exacts [cancelEntry_gateView d a st, rfl]) _

/-! ## Ring faults, the halt and the ends of admin operations -/

theorem raiseAlert_gateView (d : Device) (x : Word) : (d.raiseAlert x).gateView = d.gateView := rfl

theorem setCRing_gateView (d : Device) (n : CRingId) (v : CRing) : (d.setCRing n v).gateView = d.gateView := by
  cases n <;> rfl

theorem ringFault_gateView (d : Device) (r : RingId) (cause : FaultCause) :
    (d.ringFault r cause).gateView = d.gateView := by
  unfold Device.ringFault
  split
  · rw [raiseAlert_gateView, cancelRing_gateView]
    rfl
  · rfl

theorem halt_steady (d : Device) (reason : HReason) : Steady d (d.halt reason) := .of_not_run (by simp [Device.halt])

theorem haltFromBus_steady (d : Device) (reason : HReason) : Steady d (d.haltFromBus reason) := by
  unfold Device.haltFromBus
  split
  · exact halt_steady d reason
  · exact .refl d

theorem endReset_gateView (d : Device) (a : Slot) (record : RawRecord) :
    (d.endReset a record).gateView = d.gateView := by
  unfold Device.endReset
  dsimp only
  split
  · rw [answer_gateView]
    split <;> rfl
  · rfl

theorem endDrain_steady (d : Device) (a : Slot) : Steady d (d.endDrain a) := by
  unfold Device.endDrain
  split
  · exact .of_not_run (by simp)
  · exact .refl d

theorem endOps_steady (d : Device) : Steady d d.endOps := by
  unfold Device.endOps
  repeat' split
  · exact .refl d
  · exact .refl d
  · exact .of_view (endReset_gateView d _ _)
  · exact endDrain_steady d _
  · exact .refl d

theorem faultC1_steady (d : Device) : Steady d d.faultC1 := by
  unfold Device.faultC1
  refine Steady.trans (.of_view ?_) (endOps_steady _)
  rw [foldl_field (g := Device.gateView) _ (fun d r => by split; exacts [ringFault_gateView d r _, rfl]),
    raiseAlert_gateView, foldl_field (g := Device.gateView) _ (fun d a => by rfl)]
  rfl

/-! ## The close of an event -/

theorem failCompletion_steady (d : Device) (n : CRingId) : Steady d (d.failCompletion n) := by
  cases n
  · exact haltFromBus_steady d _
  · exact faultC1_steady d

theorem issue_steady (d : Device) (n : CRingId) : Steady d (d.issue n) := by
  unfold Device.issue
  repeat' split
  · exact .refl d
  · exact .of_view (setCRing_gateView d n _)
  · exact failCompletion_steady d n
  · exact .refl d

theorem readFailed_steady (d : Device) (r : RingId) : Steady d (d.readFailed r) := by
  unfold Device.readFailed
  split
  · exact haltFromBus_steady d _
  · exact .of_view (ringFault_gateView d r _)

theorem grant_steady (d : Device) : Steady d d.grant := by
  unfold Device.grant
  split
  · exact .refl d
  · split
    · exact .refl d
    next r _ =>
      generalize (if r = 0 then d.lastGrant else r) = last
      split
      · exact .of_view rfl
      · exact Steady.trans (d' := { d with lastGrant := last }) (.of_view rfl) (readFailed_steady _ r)

theorem service_steady (d : Device) : Steady d d.service :=
  ((issue_steady d .c1).trans (issue_steady _ .c0)).trans (grant_steady _)

theorem settle_steady (d : Device) : Steady d d.settle := by
  have rounds (n : Nat) (d : Device) : Steady d (Device.serviceRounds n d) := by
    induction n generalizing d with
    | zero => exact .refl d
    | succ n ih => exact (service_steady d).trans (ih _)
  unfold Device.settle
  split
  · exact service_steady d
  · exact rounds 6 d

theorem signalRise_gateView (d before : Device) (again : Bool) : (d.signalRise before again).gateView = d.gateView := by
  rw [signalRise_eq]
  rfl

/-- An event keeps the gates settled when its own effect does. -/
theorem event_keepsGates {f : Device → Device} (h : KeepsGates d (f d)) : KeepsGates d (d.event f) :=
  (h.thenSteady (settle_steady _)).thenView (signalRise_gateView _ _ _)

theorem event_keepsGates_of_view {f : Device → Device} (h : (f d).gateView = d.gateView) : KeepsGates d (d.event f) :=
  event_keepsGates (keepsGates_of_view h)

end Sys2Proof.Machine
end

section
/-! The takings keep the gates settled (R80, R81, R85; O57). -/

namespace Sys2Proof.Machine

variable {d d' d'' : Device}

/-! ## The taking itself -/

theorem taking_keepsGates {r : RingId} {isKind : RawRecord → Bool} {intake : Slot → RawRecord → Device → Device}
    (h : ∀ a head d', KeepsGates d' (intake a head d')) : KeepsGates d (d.taking r isKind intake) := by
  unfold Device.taking
  split
  next head rest a _ =>
    refine .ite (fun _ => event_keepsGates ?_) fun _ => (Steady.refl d).keepsGates
    exact .afterView (d' := d.takeHead r a head rest) rfl (h a head _)
  · exact (Steady.refl d).keepsGates

/-! ## Action records (R31) -/

theorem addDeadline_gateView (d : Device) (a : Slot) (record : RawRecord) :
    (d.addDeadline a record).gateView = d.gateView := by
  unfold Device.addDeadline
  split <;> rfl

theorem joinTrigger_gateView (d : Device) (i : InputId) (a : Slot) : (d.joinTrigger i a).gateView = d.gateView :=
  setInput_gateView (by rfl)

theorem triggerWait_gateView (d : Device) (a : Slot) (record : RawRecord) :
    ((d.addDeadline a record).enterTriggerWait a record).gateView = d.gateView := by
  rw [Device.enterTriggerWait, joinTrigger_gateView, setEntryState_gateView, addDeadline_gateView]

theorem intakeOutput_gateView (k : ActionKind) (r : RingId) (a : Slot) (record : RawRecord) (d : Device) :
    (Device.intakeOutput k r a record d).gateView = d.gateView := by
  unfold Device.intakeOutput
  repeat' split
  · exact answer_gateView d a _ _
  · exact triggerWait_gateView d a record
  · rw [actionStage_gateView, addDeadline_gateView]
  · exact answer_gateView d a _ _

theorem takeOutput_keepsGates (d : Device) (k : ActionKind) (r : RingId) : KeepsGates d (d.takeOutput k r) :=
  taking_keepsGates fun a record d' => keepsGates_of_view (intakeOutput_gateView k r a record d')

theorem takeNote_keepsGates (d : Device) (r : RingId) :
    KeepsGates d (d.taking r (fun h => r != 0 && isActionKind .note h) Device.intakeNote) := by
  refine taking_keepsGates fun a record d' => keepsGates_of_view ?_
  unfold Device.intakeNote
  split
  · exact triggerWait_gateView d' a record
  · exact answer_gateView d' a _ _

/-- A KEEPALIVE leaves SUPOK as it was (R128). -/
theorem takeKeepalive_keepsGates (d : Device) (r : RingId) :
    KeepsGates d (d.taking r (fun h => r != 0 && isActionKind .keepalive h) Device.intakeKeepalive) := by
  refine taking_keepsGates fun a record d' => keepsGates_of_view ?_
  unfold Device.intakeKeepalive
  split
  · split
    next hok =>
      rw [answer_gateView, armCountdown_of_ok hok]
      exact gateView_eq_iff.mpr ⟨rfl, fun _ => ⟨.refl _, rfl⟩, fun _ => rfl, by simp [Device.supok, hok]⟩
    all_goals exact answer_gateView d' a _ _
  · exact answer_gateView d' a _ _

theorem takeUnknown_keepsGates (d : Device) (r : RingId) :
    KeepsGates d (d.taking r (isUnknownKind r) Device.intakeUnknown) :=
  taking_keepsGates fun a _ d' => keepsGates_of_view (answer_gateView d' a _ _)

/-! ## Admin records (R179) -/

theorem takeAdmin_keepsGates {k : AdminKind} {execute : Slot → RawRecord → Device → Device}
    (h : ∀ a record d', KeepsGates d' (execute a record d')) : KeepsGates d (d.takeAdmin k execute) :=
  taking_keepsGates fun a record d' =>
    .ite (fun _ => h a record d') fun _ => keepsGates_of_view (answer_gateView d' a _ _)

theorem takeChecked_keepsGates {k : AdminKind} {ok : RawRecord → Bool} {apply : RawRecord → Device → Device}
    (h : ∀ record d', KeepsGates d' (apply record d')) : KeepsGates d (d.takeAdmin k (Device.checked ok apply)) :=
  takeAdmin_keepsGates fun a record d' =>
    .ite (fun _ => (h record d').thenView (answer_gateView _ a _ _))
      fun _ => keepsGates_of_view (answer_gateView d' a _ _)

/-- A kind that is executed in CONFIGURE alone. -/
def ConfigureOnly (k : AdminKind) : Prop := ∀ d : Device, d.adminPermitted k = true → d.dstate = .configure

/-- A record of such a kind that stays in CONFIGURE touches no gate in RUN. -/
theorem takeConfigured_keepsGates {k : AdminKind} (hk : ConfigureOnly k)
    {execute : Slot → RawRecord → Device → Device} (h : ∀ a record d', (execute a record d').dstate = d'.dstate) :
    KeepsGates d (d.takeAdmin k execute) :=
  taking_keepsGates fun a record d' =>
    .ite (fun hp => .of_not_run (by simp [h, hk d' hp])) fun _ => keepsGates_of_view (answer_gateView d' a _ _)

theorem checked_dstate {ok : RawRecord → Bool} {apply : RawRecord → Device → Device}
    (h : ∀ record d, (apply record d).dstate = d.dstate) (a : Slot) (record : RawRecord) (d : Device) :
    (Device.checked ok apply a record d).dstate = d.dstate := by
  unfold Device.checked
  split <;> simp [h]

theorem doConfigureRing_dstate (a : Slot) (record : RawRecord) (d : Device) :
    (d.doConfigureRing a record).dstate = d.dstate := by
  unfold Device.doConfigureRing
  repeat' split
  all_goals simp

theorem doDefineGroup_dstate (a : Slot) (record : RawRecord) (d : Device) :
    (d.doDefineGroup a record).dstate = d.dstate := by
  unfold Device.doDefineGroup Device.applyGroup
  repeat' split
  all_goals simp

/-! ## ENTER_RUN, FORCE_GROUP and RESTORE_SUPERVISION -/

/-- The entry into RUN ends with a pass (R84, R180). -/
theorem goRun_keepsGates (d : Device) : KeepsGates d d.goRun :=
  keepsGates_pass fun k => by simp [Device.closeGates]

theorem enterRun_keepsGates (d : Device) : KeepsGates d (d.takeAdmin .enterRun Device.doEnterRun) := by
  refine takeAdmin_keepsGates fun a record d' => ?_
  unfold Device.doEnterRun
  repeat' split
  · exact keepsGates_of_view (answer_gateView d' a _ _)
  · exact (goRun_keepsGates d').thenView (answer_gateView _ a _ _)
  all_goals exact keepsGates_of_view (answer_gateView d' a _ _)

theorem applyForce_keepsGates (record : RawRecord) (d : Device) : KeepsGates d (d.applyForce record) :=
  keepsGates_pass fun k => by
    rw [setGroup_group]
    split
    next hk => subst hk; rfl
    · rfl

/-- Supervision restored makes a pass when SUPV changed (R130). -/
theorem applyRestore_keepsGates (record : RawRecord) (d : Device) : KeepsGates d (d.applyRestore record) := by
  refine .ite (fun hsame => keepsGates_of_view ?_) fun _ => keepsGates_pass fun k => by simp
  exact gateView_eq_iff.mpr ⟨by simp, fun k => by simp [Group.SameExpr], fun i => by simp,
    by rw [Device.supok, hsame, Device.supok]⟩

/-! ## Operations that take time -/

theorem startReset_gateView (d : Device) (r : RingId) : (d.startReset r).gateView = d.gateView := by
  rw [Device.startReset, cancelRing_gateView]
  rfl

theorem ringReset_keepsGates (d : Device) : KeepsGates d (d.takeAdmin .ringReset Device.doRingReset) := by
  refine takeAdmin_keepsGates fun a record d' => Steady.keepsGates ?_
  unfold Device.doRingReset
  repeat' split
  · refine Steady.trans (.of_view ?_) (endOps_steady _)
    rw [startReset_gateView, setEntryState_gateView]
  all_goals exact .of_view (answer_gateView d' a _ _)

theorem snapshot_keepsGates (d : Device) : KeepsGates d (d.takeAdmin .snapshot Device.doSnapshot) := by
  refine takeAdmin_keepsGates fun a record d' => keepsGates_of_view ?_
  unfold Device.doSnapshot
  dsimp only
  repeat' split
  · exact setEntryState_gateView d' a _
  · rw [answer_gateView, setEntryState_gateView]
  · exact answer_gateView d' a _ _

theorem digest_keepsGates (d : Device) : KeepsGates d (d.takeAdmin .digest Device.doDigest) := by
  refine takeAdmin_keepsGates fun a record d' => keepsGates_of_view ?_
  unfold Device.doDigest
  split <;> exact answer_gateView d' a _ _

/-- The drain leaves RUN (R181). -/
theorem enterConfigure_keepsGates (d : Device) :
    KeepsGates d (d.takeAdmin .enterConfigure Device.doEnterConfigure) := by
  refine takeAdmin_keepsGates fun a record d' => Steady.keepsGates ?_
  unfold Device.doEnterConfigure
  split
  · exact Steady.trans (.of_not_run (by simp [Device.startDrain])) (endOps_steady _)
  · exact .of_view (answer_gateView d' a _ _)

end Sys2Proof.Machine
end

section
/-! The host's writes, the boot, the events of timers, field, supervision and bus keep the gates settled, and with them
every step (R80, R81, R85, R106; O57). -/

namespace Sys2Proof.Machine

variable {d d' d'' : Device}

/-! ## Host writes and the boot -/

theorem beginBoot_steady (d : Device) : Steady d d.beginBoot := by
  unfold Device.beginBoot
  repeat' split
  · exact .of_not_run (by simp)
  all_goals exact .of_not_run (by simp [Device.halt])

theorem writeControl_keepsGates (d : Device) {v : Word} (hv : v.getLsbD 1 = false) :
    KeepsGates d (d.writeControl v) := by
  unfold Device.writeControl
  rw [hv, if_neg Bool.false_ne_true]
  refine event_keepsGates (Steady.keepsGates ?_)
  unfold Device.storeControl
  split
  · exact Steady.trans (d' := { d with control := v &&& controlStored }) (.of_view rfl) (beginBoot_steady _)
  · exact .of_view rfl

theorem writeBoot_keepsGates (d : Device) (half : BootHalf) (v : Word) : KeepsGates d (d.writeBoot half v) := by
  refine .ite (fun _ => keepsGates_of_view ?_) fun _ => keepsGates_of_view rfl
  cases half <;> rfl

theorem writeAlert_keepsGates (d : Device) (v : Word) : KeepsGates d (d.writeAlert v) := event_keepsGates_of_view rfl

theorem discardIndex_gateView (d : Device) : d.discardIndex.gateView = d.gateView := by
  unfold Device.discardIndex
  split <;> rfl

theorem producerEffect_gateView (d : Device) (v : Word) : (d.producerEffect v).gateView = d.gateView := by
  unfold Device.producerEffect Device.producerAdmin Device.producerAction
  repeat' split
  · exact discardIndex_gateView d
  · exact discardIndex_gateView d
  · rfl
  · exact ringFault_gateView d _ _
  · exact ringFault_gateView d _ _
  · rfl
  · exact discardIndex_gateView d
  · exact discardIndex_gateView d

theorem consumerEffect_gateView (d : Device) (v : Word) : (d.consumerEffect v).gateView = d.gateView := by
  unfold Device.consumerEffect
  split
  · exact setCRing_gateView d _ _
  · exact discardIndex_gateView d

theorem writeConsumer_keepsGates (d : Device) (v : Word) : KeepsGates d (d.writeConsumer v) :=
  ((keepsGates_of_view (consumerEffect_gateView d v)).thenSteady (settle_steady _)).thenView (signalRise_gateView _ _ _)

theorem writeRegister_keepsGates (d : Device) {offset : BitVec 6} {width : Nat} {v : Word}
    (hr : resets (.registerWriteOther offset width v) = false) : KeepsGates d (d.writeRegister offset width v) := by
  unfold Device.writeRegister
  split
  next hw =>
    split
    next ho =>
      obtain rfl : offset = 0x04 := BitVec.eq_of_toNat_eq ho
      subst hw
      exact writeControl_keepsGates d hr
    · exact writeAlert_keepsGates d v
    · exact writeBoot_keepsGates d .lo v
    · exact writeBoot_keepsGates d .hi v
    · exact event_keepsGates_of_view (producerEffect_gateView d v)
    · exact writeConsumer_keepsGates d v
    · exact keepsGates_of_view rfl
  · exact keepsGates_of_view rfl

theorem bootArrival_keepsGates (d : Device) (b : BootBlock) : KeepsGates d (d.bootArrival b) := by
  unfold Device.bootArrival
  split
  · refine event_keepsGates (.ite (fun _ => .of_not_run ?_) fun _ => (halt_steady d _).keepsGates)
    simp [Device.bootSucceeds]
  · exact keepsGates_of_view rfl

theorem bootFailure_keepsGates (d : Device) (how : ReadFault) : KeepsGates d (d.bootFailure how) := by
  unfold Device.bootFailure
  repeat' split
  · exact event_keepsGates (halt_steady d _).keepsGates
  · exact keepsGates_of_view rfl
  · exact keepsGates_of_view rfl

theorem endSnapshot_keepsGates (d : Device) (st : Status) : KeepsGates d (d.endSnapshot st) := by
  unfold Device.endSnapshot
  split
  · exact event_keepsGates_of_view (answer_gateView _ _ _ _)
  · exact keepsGates_of_view rfl

/-! ## Expiries of the Timing List and readback -/

theorem finishTimed_gateView (d : Device) (a : Slot) (e : Entry) (level : Bool) :
    (d.finishTimed a e level).gateView = d.gateView := answer_gateView _ a _ _

theorem stepBlink_gateView (d : Device) (a : Slot) (e : Entry) (due : Time) (b : Blink) :
    (d.stepBlink a e due b).gateView = d.gateView := rfl

theorem expireBlink_gateView (d : Device) (a : Slot) (e : Entry) (due : Time) (b : Blink) :
    (d.expireBlink a e due b).gateView = d.gateView := by
  unfold Device.expireBlink
  repeat' split
  · exact finishTimed_gateView d a e _
  · exact stepBlink_gateView d a e due _
  · exact stepBlink_gateView d a e due _

theorem expireOutput_gateView (d : Device) (a : Slot) (due : Time) : (d.expireOutput a due).gateView = d.gateView := by
  unfold Device.expireOutput
  split
  · rfl
  · split
    · split
      · exact finishTimed_gateView d a _ _
      · exact finishTimed_gateView d a _ _
      · exact finishTimed_gateView d a _ _
      · exact expireBlink_gateView d a _ due _
      · rfl
    · rfl

theorem expireDeadline_gateView (d : Device) (a : Slot) : (d.expireDeadline a).gateView = d.gateView := by
  unfold Device.expireDeadline
  repeat' split
  · rfl
  · rw [answer_gateView, unwait_gateView]
  · rw [answer_gateView, unwait_gateView]
  · rfl

theorem pointFault_gateView (d : Device) (p : PointId) : (d.pointFault p).gateView = d.gateView :=
  gateView_of_fields (by simp) (by simp) (by simp) (by simp)

theorem windowEnds_gateView (p : PointId) (d : Device) : (d.windowEnds p).gateView = d.gateView := by
  unfold Device.windowEnds
  split
  · exact pointFault_gateView d p
  · rfl

theorem senseChanges_gateView (p : PointId) (l : Bool) (d : Device) : (d.senseChanges p l).gateView = d.gateView := by
  unfold Device.senseChanges
  dsimp only
  split
  · exact pointFault_gateView _ p
  · rfl

/-! ## Inputs and edges -/

theorem releaseTrigger_gateView (capture : Time) (d : Device) (a : Slot) :
    (Device.releaseTrigger capture d a).gateView = d.gateView := by
  unfold Device.releaseTrigger
  repeat' split
  · rfl
  · exact answer_gateView d a _ _
  · exact actionStage_gateView d a

theorem releaseTriggers_gateView (d : Device) (i : InputId) (rise : Bool) (capture : Time) :
    (d.releaseTriggers i rise capture).gateView = d.gateView :=
  (foldl_field (g := Device.gateView) _ (releaseTrigger_gateView capture) _).trans (setInput_gateView (by rfl))

/-- An input that is not named stands in no literal (R106). -/
theorem not_named (d : Device) {i : InputId} (h : d.inputNamed i = false) (k : Fin 7) (s : Fin 16) (neg : Bool) :
    d.groups[k].lits[s] ≠ .input i neg := by
  intro hl
  have hnames : namesInput i d.groups[k].lits[s] = true := by rw [hl]; exact beq_self_eq_true i
  simp only [Device.inputNamed, List.any_eq_false, List.any_eq_true, Vector.mem_toList_iff, not_exists, not_and] at h
  exact h _ (Vector.getElem_mem k.isLt) _ (Vector.getElem_mem s.isLt) hnames

/-- A change of an input that no group reads (R106). -/
theorem setInput_keepsGates {i : InputId} {v : Input} (h : d.inputNamed i = false) :
    KeepsGates d (d.setInput i v) := fun _ hs hrun k => by
  have hvalue : (d.setInput i v).groupValue k = d.groupValue k := by
    refine groupValue_congr (.refl _) fun s => literalTrue_congr (fun j neg hl => ?_) (fun _ _ _ => rfl) rfl
    rw [setInput_input, if_neg]
    rintro rfl
    exact not_named d h k s neg hl
  rw [hvalue]
  exact hs hrun k

/-- An edge event makes a pass when a literal names its input (R105, R106). -/
theorem edge_keepsGates (i : InputId) (capture : Time) (d : Device) : KeepsGates d (d.edge i capture) := by
  unfold Device.edge
  dsimp only
  split
  · refine KeepsGates.thenView ?_ (releaseTriggers_gateView _ i _ capture)
    split
    · exact keepsGates_pass fun _ => rfl
    next hn => exact setInput_keepsGates (Bool.eq_false_iff.mpr hn)
  next hrun => exact .of_not_run (by simpa using hrun)

theorem sample_gateView (d : Device) (i : InputId) : (d.setInput i d.inputs[i].sample).gateView = d.gateView :=
  setInput_gateView (by rfl)

theorem rawChange_keepsGates (i : InputId) (d : Device) : KeepsGates d (d.rawChange i) := by
  have hview := sample_gateView d i
  unfold Device.rawChange
  dsimp only
  generalize d.setInput i d.inputs[i].sample = x at hview
  refine .afterView hview ?_
  repeat' split
  · exact keepsGates_of_view (setInput_gateView (by rfl))
  · exact edge_keepsGates i _ x
  · exact keepsGates_of_view (setInput_gateView (by rfl))

/-! ## Supervision and the bus -/

/-- The lapse makes a pass (R127). -/
theorem lapse_keepsGates (d : Device) : KeepsGates d d.lapse := keepsGates_pass fun _ => rfl

theorem writeAccepted_steady (d : Device) (n : CRingId) : Steady d (d.writeAccepted n) := by
  refine Steady.trans (.of_view ?_) (endOps_steady _)
  rw [setCRing_gateView, Device.freeHead]
  split <;> rfl

theorem arrive_gateView (op : ReadOp) (records : List RawRecord) (d : Device) :
    (d.arrive op records).gateView = d.gateView := by
  unfold Device.arrive
  dsimp only
  repeat' split
  · rfl
  · exact ringFault_gateView _ _ _
  · rfl

theorem failRead_steady (op : ReadOp) (d : Device) : Steady d (d.failRead op) := by
  unfold Device.failRead
  dsimp only
  split
  · exact .of_view rfl
  · exact Steady.trans (d' := { d with channel := none }) (.of_view rfl) (readFailed_steady _ _)

/-! ## Every command and every step -/

/-- A command that acts under a condition keeps what its act keeps. -/
theorem KeepsGates.when {p : Prop} [Decidable p] (h : KeepsGates d d') : KeepsGates d (if p then d' else d) :=
  .ite (fun _ => h) fun _ => keepsGates_of_view rfl

theorem KeepsGates.unless {p : Prop} [Decidable p] (h : KeepsGates d d') : KeepsGates d (if p then d else d') :=
  .ite (fun _ => keepsGates_of_view rfl) fun _ => h

/-- The records that define the configuration are executed in CONFIGURE alone (11.4). -/
theorem configureOnly_of_mem {k : AdminKind} (hk : k ∈ [AdminKind.configureRing, .configureCompletion, .definePoint,
    .defineInput, .defineZone, .defineGroup, .setSupervision]) : ConfigureOnly k := fun d hp => by
  simp only [List.mem_cons, List.not_mem_nil, or_false] at hk
  obtain rfl | rfl | rfl | rfl | rfl | rfl | rfl := hk <;> exact beq_iff_eq.mp hp

theorem exec_keepsGates (c : Instr) (s : State) (hr : resets c = false) :
    ∃ d, exec c s = .next { s with dev := d } ∧ KeepsGates s.dev d := by
  cases c with
  | powerOnReset => cases hr
  | linkReset => cases hr
  | controlReset v | enable v | ic0en v | ic1en v | alerten v => exact ⟨_, rfl, writeControl_keepsGates _ hr⟩
  | bootReadArrival b => exact ⟨_, rfl, bootArrival_keepsGates _ b⟩
  | bootReadFailure how => exact ⟨_, rfl, bootFailure_keepsGates _ how⟩
  | bootAddressWrite half v => exact ⟨_, rfl, writeBoot_keepsGates _ half v⟩
  | alertWrite v => exact ⟨_, rfl, writeAlert_keepsGates _ v⟩
  | producerWrite v => exact ⟨_, rfl, event_keepsGates_of_view (producerEffect_gateView _ v)⟩
  | consumerWrite v => exact ⟨_, rfl, writeConsumer_keepsGates _ v⟩
  | registerWriteOther o w v => exact ⟨_, rfl, writeRegister_keepsGates _ hr⟩
  | set r | clear r | pulse r | delaySet r | delayClear r | blink r => exact ⟨_, rfl, takeOutput_keepsGates _ _ r⟩
  | note r => exact ⟨_, rfl, takeNote_keepsGates _ r⟩
  | keepalive r => exact ⟨_, rfl, takeKeepalive_keepsGates _ r⟩
  | unknownKind r => exact ⟨_, rfl, takeUnknown_keepsGates _ r⟩
  | configureRing => exact ⟨_, rfl, takeConfigured_keepsGates (configureOnly_of_mem (by simp)) doConfigureRing_dstate⟩
  | defineGroup => exact ⟨_, rfl, takeConfigured_keepsGates (configureOnly_of_mem (by simp)) doDefineGroup_dstate⟩
  | configureCompletion | definePoint | defineInput | defineZone | setSupervision =>
    exact ⟨_, rfl, takeConfigured_keepsGates (configureOnly_of_mem (by simp)) (checked_dstate fun _ _ => rfl)⟩
  | enterRun => exact ⟨_, rfl, enterRun_keepsGates _⟩
  | enterConfigure => exact ⟨_, rfl, enterConfigure_keepsGates _⟩
  | drainEnd | ringResetEnd => exact ⟨_, rfl, .when (event_keepsGates (endOps_steady _).keepsGates)⟩
  | forceGroup => exact ⟨_, rfl, takeChecked_keepsGates applyForce_keepsGates⟩
  | restoreSupervision => exact ⟨_, rfl, takeChecked_keepsGates applyRestore_keepsGates⟩
  | clearPointFault => exact ⟨_, rfl, takeChecked_keepsGates fun _ _ => keepsGates_of_view rfl⟩
  | ringReset => exact ⟨_, rfl, ringReset_keepsGates _⟩
  | snapshot => exact ⟨_, rfl, snapshot_keepsGates _⟩
  | snapshotWriteAccepted | snapshotWriteFailed => exact ⟨_, rfl, endSnapshot_keepsGates _ _⟩
  | digest => exact ⟨_, rfl, digest_keepsGates _⟩
  | outputTimerExpiry =>
    refine ⟨_, rfl, ?_⟩
    dsimp only
    split
    · exact .when (event_keepsGates_of_view (expireOutput_gateView _ _ _))
    · exact keepsGates_of_view rfl
  | deadlineExpiry =>
    refine ⟨_, rfl, ?_⟩
    dsimp only
    split
    · exact .when (event_keepsGates_of_view (expireDeadline_gateView _ _))
    · exact keepsGates_of_view rfl
  | settleWindowEnd p => exact ⟨_, rfl, .when (event_keepsGates_of_view (windowEnds_gateView p _))⟩
  | senseChange p l => exact ⟨_, rfl, .unless (event_keepsGates_of_view (senseChanges_gateView p l _))⟩
  | rawTransition i => exact ⟨_, rfl, .unless (event_keepsGates (rawChange_keepsGates i _))⟩
  | edgeEvent i =>
    refine ⟨_, rfl, ?_⟩
    dsimp only
    split
    · exact .when (event_keepsGates (edge_keepsGates i _ _))
    · exact keepsGates_of_view rfl
  | supervisionLapse => exact ⟨_, rfl, .when (event_keepsGates (lapse_keepsGates _))⟩
  | coalescingDelayExpiry n => exact ⟨_, rfl, .when (event_keepsGates_of_view (setCRing_gateView _ n _))⟩
  | completionWriteAccepted n => exact ⟨_, rfl, .when (event_keepsGates (writeAccepted_steady _ n).keepsGates)⟩
  | completionWriteFailed n => exact ⟨_, rfl, .when (event_keepsGates (failCompletion_steady _ n).keepsGates)⟩
  | readArrival records =>
    refine ⟨_, rfl, ?_⟩
    dsimp only
    split
    · exact .when (event_keepsGates_of_view (arrive_gateView _ records _))
    · exact keepsGates_of_view rfl
  | readFailure how =>
    refine ⟨_, rfl, ?_⟩
    dsimp only
    split
    · exact .when (event_keepsGates (failRead_steady _ _).keepsGates)
    · exact keepsGates_of_view rfl

theorem applyReset_gatesOrdered (d : Device) (cause : RCause) : (d.applyReset cause).GatesOrdered :=
  fun k s g neg hl => by simp [Device.applyReset, Device.afterReset, Group.atReset] at hl

theorem applyReset_gatesSettled (d : Device) (cause : RCause) : (d.applyReset cause).GatesSettled := fun hrun => by
  cases hrun

/-- Every small change keeps the GATE literals naming lower groups: DEFINE_GROUP alone sets literals (R80, R82). -/
theorem Change.gatesOrdered {c : Instr} {s0 : DState} (h : Change c s0 d d') (ho : d.GatesOrdered) :
    d'.GatesOrdered := by
  cases h
  case groups v h => exact ho.of_lits fun k => (h k).2.1
  case queue n _ | cause n _ _ | writeIssued n _ _ | writeAccepted n _ | consumed n _ _ => cases n <;> exact ho
  case drainBegun => exact ho.of_lits fun k => by simp
  case halted => exact ho.of_lits fun k => by simp [Device.halt]
  case groupDefined k v _ _ _ hlower =>
    intro j s g neg hl
    rw [setGroup_group] at hl
    split at hl
    next hj => rw [hj]; exact hlower s g neg hl
    · exact ho j s g neg hl
  all_goals exact ho

theorem step_keepsGates {s t : State} (hst : step s = .next t) : KeepsGates s.dev t.dev := by
  have hexec (c : Instr) (s : State) (hst : exec c s = .next t) : KeepsGates s.dev t.dev := by
    cases hr : resets c with
    | true =>
      obtain ⟨cause, he⟩ := exec_of_resets c s hr
      rw [he, Host.Outcome.next.injEq] at hst
      subst hst
      exact fun _ _ => applyReset_gatesSettled _ _
    | false =>
      obtain ⟨d, he, hkeeps⟩ := exec_keepsGates c s hr
      rw [he, Host.Outcome.next.injEq] at hst
      subst hst
      exact hkeeps
  unfold step at hst
  split at hst
  next c rest _ => exact hexec c { s with pending := rest } hst
  · unfold idle at hst
    split at hst
    · exact hexec _ _ hst
    · cases hst
      exact keepsGates_of_view (gateView_eq_iff.mpr ⟨rfl, fun _ => ⟨.refl _, rfl⟩, fun i => by simp, rfl⟩)

/-- Settles O57: the expressions by the small changes of a step, the gates because a command either changes nothing
that a gate follows or makes a pass. -/
theorem gatesSettledKept : Obligations.GatesSettledKept := fun _ _ ho hs hst =>
  ⟨step_keeps applyReset_gatesOrdered (fun _ h => h) (fun _ _ _ _ => Change.gatesOrdered) ho hst,
    step_keepsGates hst ho hs⟩

end Sys2Proof.Machine
end

section
/-! The entry into RUN: what its checks ask, and what the pass opens where nothing waits (R84, R126, R180; O31). -/

namespace Sys2Proof.Machine

variable {d : Device} {a : Slot} {head : RawRecord} {rest : List RawRecord}

/-! ## The checks of ENTER_RUN -/

/-- Every ACTIVE action ring is bound to an ACTIVE completion ring (R180). -/
theorem bindingsOk_iff :
    d.bindingsOk = true ↔
      ∀ r : RingId, r ≠ 0 → d.rings[r].state = .active → (d.cring d.rings[r].bound).state = .active := by
  simp only [Device.bindingsOk, List.all_eq_true, mem_actionRings, Bool.or_eq_true, bne_iff_ne, ne_eq, beq_iff_eq,
    imp_iff_not_or]

theorem mem_zonePairs {i j : Fin 8} : (i, j) ∈ zonePairs ↔ i < j := by
  simp [zonePairs]

/-- No two zones overlap, where STRICT asks for it (R121). -/
theorem strictOverlap_eq_none_iff {record : RawRecord} :
    d.strictOverlap record = none ↔
      (strictOf record = true → ∀ i j : Fin 8, i < j → zonesOverlap d.zones[i] d.zones[j] = false) := by
  unfold Device.strictOverlap Device.overlapPair
  split
  next hstrict =>
    simp only [hstrict, forall_true_left, List.find?_eq_none, Prod.forall, mem_zonePairs, Bool.not_eq_true]
  next hstrict => simp [hstrict]

/-- The digest is the one expected, where DIGEST_PRESENT is set (R180). -/
theorem digestOk_iff {record : RawRecord} :
    d.digestOk record = true ↔ (digestPresentOf record = true → d.digestValue = expectedDigestOf record) := by
  simp only [Device.digestOk, Bool.or_eq_true, Bool.not_eq_true', beq_iff_eq, ← Bool.not_eq_true, imp_iff_not_or]

theorem doEnterRun_passes {record : RawRecord} (hok : enterRunOk record = true) (hb : d.bindingsOk = true)
    (ho : d.strictOverlap record = none) (hd : d.digestOk record = true) :
    d.doEnterRun a record = d.goRun.answer a .done 0 := by
  rw [Device.doEnterRun, if_pos hok, if_pos hb, ho]
  exact if_pos hd

/-! ## A pass where nothing waits -/

/-- The block with these gates and no other change. -/
def Device.withGates (d : Device) (gates : Vector Bool 7) : Device :=
  { d with groups := Vector.ofFn (fun k : Fin 7 => { d.groups[k] with gate := gates[k] }) }

theorem withGates_group (d : Device) (gates : Vector Bool 7) (k : Fin 7) :
    (d.withGates gates).groups[k] = { d.groups[k] with gate := gates[k] } := by
  simp [Device.withGates]

theorem withGates_withGates (d : Device) (gates gates' : Vector Bool 7) :
    (d.withGates gates).withGates gates' = d.withGates gates' := by
  simp [Device.withGates]

theorem withGates_self (d : Device) : d.withGates (d.groups.map Group.gate) = d := by
  have hgroups : (d.withGates (d.groups.map Group.gate)).groups = d.groups := Vector.ext fun k hk => by
    simp [Device.withGates]
  exact congrArg (fun gs => { d with groups := gs }) hgroups

/-- An opening of a group with no wait list only sets its gate (R89). -/
theorem openGroup_of_noWaits {k : Fin 7} (hw : d.groups[k].waits = []) :
    d.openGroup k = d.withGates ((d.groups.map Group.gate).set k true) := by
  have hgroups : (d.setGroup k { d.groups[k] with gate := true, waits := [] }).groups =
      (d.withGates ((d.groups.map Group.gate).set k true)).groups := Vector.ext fun j hj => by
    have hset := setGroup_group d k ⟨j, hj⟩ { d.groups[k] with gate := true, waits := [] }
    have hwith := withGates_group d ((d.groups.map Group.gate).set k true) ⟨j, hj⟩
    refine hset.trans (Eq.trans ?_ hwith.symm)
    split
    next hjk => subst hjk; simpa using hw.symm
    next hjk =>
      have hne : k.val ≠ j := fun h => hjk (Fin.ext h.symm)
      simp [hne]
  rw [Device.openGroup, hw]
  exact congrArg (fun gs => { d with groups := gs }) hgroups

/-- A turn of a CLOSED group with no wait list changes gates alone: it may only open (R85, R89). -/
theorem passTurn_of_quiet {k : Fin 7} (hg : d.groups[k].gate = false) (hw : d.groups[k].waits = []) :
    ∃ gates : Vector Bool 7, d.passTurn k = d.withGates gates := by
  unfold Device.passTurn
  split
  · exact ⟨_, (withGates_self d).symm⟩
  next hne =>
    rw [hg, Bool.not_eq_false] at hne
    rw [if_pos hne]
    exact ⟨_, openGroup_of_noWaits hw⟩

theorem turns_of_quiet {l : List (Fin 7)} (hl : l.Nodup)
    (hq : ∀ k ∈ l, d.groups[k].gate = false ∧ d.groups[k].waits = []) :
    ∃ gates : Vector Bool 7, l.foldl Device.passTurn d = d.withGates gates := by
  induction l generalizing d with
  | nil => exact ⟨_, (withGates_self d).symm⟩
  | cons k l ih =>
    obtain ⟨hk, hl⟩ := List.nodup_cons.mp hl
    obtain ⟨hgk, hwk⟩ := hq k List.mem_cons_self
    obtain ⟨gates, hturn⟩ := passTurn_of_quiet hgk hwk
    obtain ⟨gates', hrest⟩ := ih (d := d.passTurn k) hl fun j hj => by
      obtain ⟨hgj, hwj⟩ := hq j (List.mem_cons_of_mem k hj)
      refine ⟨?_, ?_⟩
      · rw [(passTurn_frame d k).2 j, if_neg fun (h : j = k) => hk (h ▸ hj), hgj]
      · rw [hturn, withGates_group, hwj]
    exact ⟨gates', by rw [List.foldl_cons, hrest, hturn, withGates_withGates]⟩

/-- A pass over CLOSED groups with no wait list changes gates alone. -/
theorem pass_of_quiet (hq : ∀ k : Fin 7, d.groups[k].gate = false ∧ d.groups[k].waits = []) :
    ∃ gates : Vector Bool 7, d.pass = d.withGates gates := by
  by_cases hrun : d.dstate = .run
  · rw [pass_of_run hrun]
    exact turns_of_quiet (List.nodup_finRange 7) fun k _ => hq k
  · rw [pass_of_not_run hrun]
    exact ⟨_, (withGates_self d).symm⟩

/-! ## The entry -/

/-- Supervision started anew, at the interval in ticks (R126, R130). -/
theorem startSupervision_eq (d : Device) :
    d.startSupervision =
      { d with
        sup :=
          if d.sup.interval = 0 then { d.sup with supv := .off, countdown := none }
          else
            { d.sup with
              supv := .ok
              countdown := some (d.now + BitVec.ofNat 32 (d.sup.interval.toNat * 100)) } } := by
  unfold Device.startSupervision
  split <;> rfl

/-- The entry into RUN from CLOSED gates with no wait lists: DSTATE, supervision, and the gates at their values. -/
theorem goRun_of_quiet (ho : d.GatesOrdered) (hq : ∀ k : Fin 7, d.groups[k].waits = []) :
    ∃ gates : Vector Bool 7,
      d.goRun = ({ d with dstate := .run } : Device).startSupervision.withGates gates ∧
        ∀ k : Fin 7, gates[k] = d.goRun.groupValue k := by
  have hclosed (k : Fin 7) : ({ d with dstate := .run } : Device).startSupervision.closeGates.groups[k] =
      { d.groups[k] with gate := false } := by simp [Device.closeGates]
  obtain ⟨gates, hpass⟩ := pass_of_quiet fun k => by rw [hclosed k]; exact ⟨rfl, hq k⟩
  have hgates : d.goRun = ({ d with dstate := .run } : Device).startSupervision.withGates gates := by
    rw [Device.goRun, hpass]
    simp [Device.withGates, Device.closeGates]
  refine ⟨gates, hgates, fun k => ?_⟩
  have hsettled : d.goRun.GatesSettled := pass_gatesSettled (ho.of_lits fun j => by rw [hclosed j])
  have hrun : d.goRun.dstate = .run := by simp [Device.goRun, Device.closeGates]
  rw [← hsettled hrun k, hgates, withGates_group]

/-- A taking of ring 0 leaves the action rings. -/
theorem takeHead_admin_ring {r : RingId} (hr : r ≠ 0) : (d.takeHead 0 a head rest).rings[r] = d.rings[r] := by
  exact (setRing_ring d 0 r _).trans (if_neg hr)

/-- Settles O31: the checks pass, and the pass of the entry finds CLOSED groups with no wait lists. -/
theorem enterRunOpensGates : Obligations.EnterRunOpensGates := by
  intro s head rest a ht hconf hok hbind hzones hdigest hquiet hordered
  have hwaits (k : Fin 7) : (s.dev.takeHead 0 a head rest).groups[k].waits = [] := by
    obtain ⟨-, -, hgroups, -⟩ := hquiet (by simp [hconf])
    exact (hgroups k).2
  obtain ⟨gates, hrun, hvalues⟩ := goRun_of_quiet (d := s.dev.takeHead 0 a head rest) hordered hwaits
  refine ⟨gates, _, ?_, hvalues, ?_⟩
  · rw [hrun, startSupervision_eq]
    rfl
  · refine closes_admin rfl ht (by simp [Device.adminPermitted, hconf])
      (doEnterRun_passes hok (bindingsOk_iff.mpr fun r hr hr' => ?_) (strictOverlap_eq_none_iff.mpr hzones)
        (digestOk_iff.mpr hdigest))
    rw [takeHead_admin_ring hr] at hr' ⊢
    exact hbind r hr hr'

end Sys2Proof.Machine
end

section
/-! FORCE_GROUP, RESTORE_SUPERVISION and the supervision lapse (R83, R127, R130; O34), and the conditions that hold at
reset (O60). -/

namespace Sys2Proof.Machine

/-! ## Passes made by a record or a lapse -/

/-- The group in byte 4 of a record, read as a number. -/
theorem groupIndexOf_eq {record : RawRecord} {k : Fin 7} (h : k.val + 1 = (byteAt record 4).toNat) :
    groupIndexOf record = k :=
  Fin.ext (by simp only [groupIndexOf, Fin.val_ofNat]; omega)

/-- The lapse of a countdown that is due (R127). -/
theorem closes_lapse {s : State} {due : Time} {x : Device} (hok : s.dev.sup.supv = .ok)
    (hc : s.dev.sup.countdown = some due) (hdue : timeReached s.dev.now due = true) (hx : s.dev.lapse = x) :
    Closes .supervisionLapse s x := by
  refine closes_event (f := Device.lapse) ?_ hx
  have hlapse : s.dev.lapseDue = true := (lapseDue_iff s.dev).mpr ⟨due, hok, hc, hdue⟩
  simp [exec, execSupervisionLapse, State.run, hlapse]

/-- Settles O34: each record's effect on the state taken, with the pass it makes. -/
theorem forceRestoreAndLapse : Obligations.ForceRestoreAndLapse := by
  intro s head rest a
  refine ⟨fun k x ht hok hk hx => ?_, fun v x ht hrun hok hv hx => ?_,
    fun due hok hc hdue => closes_lapse hok hc hdue rfl⟩
  · obtain rfl := groupIndexOf_eq hk
    have hforce : Device.applyForce head (s.dev.takeHead 0 a head rest) = x.pass := by
      rw [hx]
      rfl
    have hstate : x.dstate = s.dev.dstate := by rw [hx]; rfl
    refine ⟨fun hconf => ?_, fun hrun => ?_⟩
    · refine closes_checked rfl ht (by simp [Device.adminPermitted, hconf]) hok (hforce.trans ?_)
      exact pass_of_not_run (by rw [hstate, hconf]; decide)
    · exact closes_checked rfl ht (by simp [Device.adminPermitted, hrun]) hok hforce
  · refine closes_checked rfl ht (by simp [Device.adminPermitted, hrun]) hok ?_
    have hstart : (s.dev.takeHead 0 a head rest).startSupervision = x := by
      rw [startSupervision_eq, hx, hv]
      rfl
    rw [Device.applyRestore, hstart, hx]
    rfl

/-! ## The reset state -/

/-- The state after a power-on reset is one that a reset gives. -/
theorem reset_dev_eq : State.reset.dev = State.reset.dev.applyReset .powerOn := by
  simp [State.reset, Device.applyReset, Device.afterReset, Point.atReset, Input.atReset]

theorem applyReset_tied (d : Device) (cause : RCause) : (d.applyReset cause).Tied none :=
  tied_of_empty (applyReset_slot d cause)
    (fun p => by simp [Device.applyReset, Device.afterReset, Point.atReset]) rfl
    (fun k => by simp [Device.applyReset, Device.afterReset, Group.atReset])
    (fun i => by simp [Device.applyReset, Device.afterReset, Input.atReset]) ⟨rfl, rfl⟩

theorem applyReset_noIntake (d : Device) (cause : RCause) : (d.applyReset cause).NoIntake := fun a e he => by
  rw [applyReset_slot] at he
  cases he

/-- After a reset every ring is empty and nothing is fetched (R135). -/
theorem applyReset_ringsBounded (d : Device) (cause : RCause) : (d.applyReset cause).RingsBounded := fun r => by
  have hring : (d.applyReset cause).rings[r] = Ring.atReset := by simp [Device.applyReset, Device.afterReset]
  rw [hring]
  exact ⟨by decide, by decide, by decide, Nat.zero_le _, fun _ => ⟨rfl, rfl⟩⟩

/-- A completion ring after a reset holds nothing (R155). -/
theorem atReset_bounded : CRing.atReset.Bounded := by
  unfold CRing.Bounded
  decide

/-- Settles O60: each condition holds after every reset. -/
theorem invariantsHoldAtReset : Obligations.InvariantsHoldAtReset := by
  unfold Obligations.InvariantsHoldAtReset
  rw [reset_dev_eq]
  generalize State.reset.dev = d
  obtain ⟨hclaims, hfaulted, htimers, hwaits, hqueues, -⟩ := tied_iff.mp (applyReset_tied d .powerOn)
  exact ⟨applyReset_quiet d _, applyReset_gatesOrdered d _, applyReset_gatesSettled d _, applyReset_pools d _,
    applyReset_quotas d _, applyReset_noIntake d _, applyReset_ringsBounded d _, ⟨atReset_bounded, atReset_bounded⟩,
    hclaims, hfaulted, htimers, hwaits, hqueues⟩

end Sys2Proof.Machine
end

section
/-! A raw transition and the edge event (R100 to R102, R105, R106, R108 to R110; O43, O44). -/

namespace Sys2Proof.Machine

variable {d : Device} {i : InputId} {s : State}

/-! ## The raw transition -/

@[simp] theorem setInput_setInput (d : Device) (i : InputId) (u v : Input) :
    (d.setInput i u).setInput i v = d.setInput i v := by
  simp [Device.setInput]

/-- What a raw transition makes of the sampled input: its interval is ended, it is qualified at once, or an interval is
begun (R101, R102). -/
theorem rawChange_eq {v : Input} (hv : v = d.inputs[i].sample) :
    d.rawChange i =
      if v.raw = v.qualified then d.setInput i { v with pendingSince := none }
      else if v.debounce = 0 then (d.setInput i v).edge i d.now
      else d.setInput i { v with pendingSince := some d.now } := by
  have hinput : (d.setInput i v).inputs[i] = v := by rw [setInput_input, if_pos rfl]
  rw [Device.rawChange, ← hv, hinput, setInput_setInput, setInput_setInput]
  rfl

theorem exec_rawTransition (s : State) (i : InputId) :
    exec (.rawTransition i) s =
      .next { s with dev := if s.dev.inputs[i].moved then s.dev else s.dev.event (Device.rawChange i) } := rfl

theorem closes_rawTransition {x : Device} (h : s.dev.inputs[i].moved = false) (hx : s.dev.rawChange i = x) :
    Closes (.rawTransition i) s x :=
  closes_event (f := Device.rawChange i) (by rw [exec_rawTransition, if_neg (Bool.eq_false_iff.mp h)]) hx

/-- Settles O43, by the raw level and by DEBOUNCE. -/
theorem rawTransitionHandled : Obligations.RawTransitionHandled := by
  refine ⟨fun s i hmoved => by rw [exec_rawTransition, if_pos hmoved], fun s i v hmoved hv => ?_⟩
  have hchange := rawChange_eq hv
  refine ⟨fun heq => ?_, fun hne hdeb => ?_, fun hne hdeb => ?_⟩
  · exact closes_rawTransition hmoved (hchange.trans (if_pos heq))
  · exact closes_rawTransition hmoved (hchange.trans ((if_neg hne).trans (if_neg hdeb)))
  · exact closes_rawTransition hmoved (hchange.trans ((if_neg hne).trans (if_pos hdeb)))

/-! ## What the edge event reads -/

/-- EDGE 1, 2 and 3 match a rise, a fall and either (R26). -/
theorem edgeMatches_edgeOf_iff (rise : Bool) (r : RawRecord) :
    edgeMatches rise (edgeOf r) = true ↔ byteAt r 10 = 3 ∨ byteAt r 10 = (if rise = true then 1 else 2) := by
  unfold edgeOf
  generalize byteAt r 10 = b
  split
  next h =>
    obtain rfl : b = 1 := BitVec.eq_of_toNat_eq h
    cases rise <;> decide
  next h =>
    obtain rfl : b = 2 := BitVec.eq_of_toNat_eq h
    cases rise <;> decide
  next h =>
    obtain rfl : b = 3 := BitVec.eq_of_toNat_eq h
    cases rise <;> decide
  next h1 h2 h3 =>
    refine iff_of_false Bool.false_ne_true ?_
    rintro (rfl | hb)
    · exact h3 rfl
    · cases rise
      · exact h2 (congrArg BitVec.toNat hb)
      · exact h1 (congrArg BitVec.toNat hb)

theorem namesInput_iff {l : Literal} : namesInput i l = true ↔ ∃ neg : Bool, l = .input i neg := by
  cases l <;> simp [namesInput]

/-- An input is named exactly when it stands in a literal (R106). -/
theorem inputNamed_iff :
    d.inputNamed i = true ↔ ∃ (k : Fin 7) (j : Fin 16) (neg : Bool), d.groups[k].lits[j] = .input i neg := by
  refine ⟨fun h => ?_, fun ⟨k, j, neg, hl⟩ => ?_⟩
  · simp only [Device.inputNamed, List.any_eq_true, Vector.mem_toList_iff] at h
    obtain ⟨g, hg, l, hl, hname⟩ := h
    obtain ⟨k, hk, rfl⟩ := Vector.mem_iff_getElem.mp hg
    obtain ⟨j, hj, rfl⟩ := Vector.mem_iff_getElem.mp hl
    exact ⟨⟨k, hk⟩, ⟨j, hj⟩, namesInput_iff.mp hname⟩
  · by_contra hn
    exact not_named d (Bool.eq_false_iff.mpr hn) k j neg hl

/-! ## The edge event -/

/-- Outside RUN the edge event is its first step alone (R105). -/
theorem edge_of_not_run (h : d.dstate ≠ .run) (t : Time) : d.edge i t = d.setInput i (d.inputs[i].qualify t) :=
  if_neg (by simpa using h)

/-- In RUN the matching trigger waits are released after the pass that a named input brings (R106, R108). -/
theorem edge_of_run {x y : Device} {t : Time} (h : d.dstate = .run) (hx : x = d.setInput i (d.inputs[i].qualify t))
    (hy : y = if x.inputNamed i then x.pass else x) :
    d.edge i t = y.releaseTriggers i d.inputs[i].raw t := by
  have hrun : (x.dstate == .run) = true := by simp [hx, h]
  have hraw : x.inputs[i].raw = d.inputs[i].raw := by
    rw [hx, setInput_input, if_pos rfl, Input.qualify_raw]
  rw [Device.edge, ← hx, hy]
  exact (if_pos hrun).trans (by rw [hraw])

/-- With an interval begun the command is the edge event once the interval is complete, and none before (R102). -/
theorem exec_edgeEvent {since : Time} (hp : s.dev.inputs[i].pendingSince = some since) :
    exec (.edgeEvent i) s =
      .next { s with
        dev :=
          if timeReached s.dev.now (since + s.dev.inputs[i].interval) then s.dev.event (Device.edge i since)
          else s.dev } := by
  rw [exec, execEdgeEvent, State.run, hp]

theorem closes_edgeEvent {since : Time} {x : Device} (hp : s.dev.inputs[i].pendingSince = some since)
    (hdue : timeReached s.dev.now (since + s.dev.inputs[i].interval) = true) (hx : s.dev.edge i since = x) :
    Closes (.edgeEvent i) s x :=
  closes_event (f := Device.edge i since) (by rw [exec_edgeEvent hp, if_pos hdue]) hx

/-- Settles O44: the first step alone outside RUN; in RUN the pass and the releases, each by what its slot holds. -/
theorem edgeEventSteps : Obligations.EdgeEventSteps := by
  refine ⟨fun rise e => edgeMatches_edgeOf_iff rise e.record, fun d i => inputNamed_iff,
    fun s i since x y hp hx hy => ⟨fun hdue => ⟨fun hrun => ?_, fun hrun => ?_⟩, fun hearly => ?_⟩⟩
  · exact closes_edgeEvent hp hdue ((edge_of_not_run hrun since).trans hx.symm)
  · refine closes_edgeEvent hp hdue ((edge_of_run hrun hx hy).trans ?_)
    rw [Device.releaseTriggers]
    congr 1
    funext d a
    unfold Device.releaseTrigger
    cases d.slots[a] with
    | none => rfl
    | some e => simp only [beq_iff_eq]
  · rw [exec_edgeEvent hp, if_neg]
    exact Bool.eq_false_iff.mp hearly

end Sys2Proof.Machine
end

section
/-! The first element of a list that passes a test, and the Zone Table's answer (R118, R119; O17). -/

namespace Sys2Proof.Machine

/-! ## The first of a list in order -/

/-- The search of a list in order finds the element with no passing one before it. -/
theorem find?_eq_some_of_first {α : Type} {R : α → α → Prop} {l : List α} (hl : l.Pairwise R) {p : α → Bool} {a : α}
    (ha : a ∈ l) (hp : p a = true) (hfirst : ∀ b ∈ l, R b a → p b = false) : l.find? p = some a := by
  induction l with
  | nil => cases ha
  | cons b l ih =>
    obtain ⟨hb, hl⟩ := List.pairwise_cons.mp hl
    obtain rfl | ha := List.mem_cons.mp ha
    · exact List.find?_cons_of_pos hp
    · rw [List.find?_cons_of_neg (ne_true_of_eq_false (hfirst b List.mem_cons_self (hb a ha)))]
      exact ih hl ha fun c hc => hfirst c (List.mem_cons_of_mem b hc)

/-! ## The governing zone -/

variable {d : Device} {p : PointId}

theorem isOnEffect_iff {k : ActionKind} :
    isOnEffect k = true ↔ k = .set ∨ k = .pulse ∨ k = .delaySet ∨ k = .blink := by
  cases k <;> decide

theorem covers_iff {z : Zone} : z.covers p = true ↔ z.en = true ∧ z.base ≤ p.val ∧ p.val < z.base + z.size := by
  simp only [Zone.covers, Bool.and_eq_true, decide_eq_true_eq, and_assoc]

/-- The governing zone, searched by its number (R118). -/
theorem governingZone_eq (d : Device) (p : PointId) :
    d.governingZone p = ((List.finRange 8).find? (fun z => d.zones[z].covers p)).map (fun z => d.zones[z]) := by
  have hzones : d.zones.toList = (List.finRange 8).map (fun z => d.zones[z]) :=
    List.ext_getElem (by simp) fun i _ _ => by simp
  rw [Device.governingZone, hzones, List.find?_map]
  rfl

theorem governingZone_eq_none (h : ∀ z : Fin 8, d.zones[z].covers p = false) : d.governingZone p = none := by
  rw [governingZone_eq, List.find?_eq_none.mpr fun z _ => ne_true_of_eq_false (h z)]
  rfl

/-- The lowest-numbered zone that the point matches governs (R118). -/
theorem governingZone_eq_some {z : Fin 8} (hz : d.zones[z].covers p = true)
    (hlow : ∀ y : Fin 8, y < z → d.zones[y].covers p = false) : d.governingZone p = some d.zones[z] := by
  rw [governingZone_eq, find?_eq_some_of_first (List.pairwise_lt_finRange 8) (List.mem_finRange z) hz fun y _ => hlow y]
  rfl

/-- A zone lists an action ring by the ring's bit of RINGS (R117). -/
theorem lists_eq (z : Zone) {r : RingId} (hr : r ≠ 0) : z.lists r = z.rings.getLsbD (r.val - 1) := by
  rw [Zone.lists, bne_iff_ne.mpr hr, Bool.true_and]

/-- Settles O17: the search finds no zone or the lowest one, and its grant decides. -/
theorem zoneTableAnswers : Obligations.ZoneTableAnswers := by
  refine ⟨fun _ => isOnEffect_iff, fun d r onEffect p hr => ⟨fun hnone => ?_, fun z hz hlow => ?_, fun _ => covers_iff⟩⟩
  · rw [Device.zoneRefusal, governingZone_eq_none hnone]
  · rw [Device.zoneRefusal, governingZone_eq_some hz hlow]
    simp only [lists_eq _ hr, Bool.and_eq_true]

end Sys2Proof.Machine
end

section
/-! DEFINE_ZONE, SET_SUPERVISION and DEFINE_GROUP (R82, R117, R125; O29). -/

namespace Sys2Proof.Machine

variable {s : State} {head : RawRecord} {rest : List RawRecord} {a : Slot}

/-! ## Literal slot bytes -/

/-- The kind and the index of a literal slot byte, from its number without the negation bit (12.1). -/
theorem literalFields {b : Byte} {kind index : Nat} (hb : b.toNat % 128 = 32 * kind + index) (hi : index < 32) :
    (b.extractLsb' 5 2).toNat = kind ∧ (b.extractLsb' 0 5).toNat = index := by
  simp only [BitVec.extractLsb'_toNat, Nat.shiftRight_eq_div_pow]
  omega

theorem literalOf_input {b : Byte} {i : InputId} (h : b.toNat % 128 = 32 + i.val) :
    literalOf b = some (.input i (b.getLsbD 7)) := by
  obtain ⟨hkind, hindex⟩ := literalFields (kind := 1) h i.isLt
  simp [literalOf, hkind, hindex]

theorem literalOf_gate {b : Byte} {g : Fin 8} (h : b.toNat % 128 = 64 + g.val) :
    literalOf b = some (.gate g (b.getLsbD 7)) := by
  obtain ⟨hkind, hindex⟩ := literalFields (kind := 2) h (by omega)
  have hg : g.val ≤ 7 := by omega
  simp [literalOf, hkind, hindex, hg]

theorem literalOf_supok {b : Byte} (h : b.toNat % 128 = 96) : literalOf b = some (.supok (b.getLsbD 7)) := by
  obtain ⟨hkind, hindex⟩ := literalFields (kind := 3) (index := 0) h (by omega)
  simp [literalOf, hkind, hindex]

/-! ## DEFINE_GROUP -/

/-- The literals a record gives are those its slot bytes code. -/
theorem groupLiterals_eq {lits : Vector Literal 16}
    (h : ∀ i : Fin 16, literalOf (byteAt head (6 + i.val)) = some lits[i]) : groupLiterals head = lits :=
  Vector.ext fun i hi => by
    have hget : (groupLiterals head)[i] = slotLiteral head i := groupLiterals_get head ⟨i, hi⟩
    have hcode : literalOf (byteAt head (6 + i)) = some lits[i] := h ⟨i, hi⟩
    rw [hget, slotLiteral, hcode]
    rfl

/-- The order check asks that every GATE literal names a group below the record's own (R82). -/
theorem gateOrderOk_iff {record : RawRecord} :
    gateOrderOk record = true ↔
      ∀ (i : Fin 16) (g : Fin 8) (neg : Bool), (groupLiterals record)[i] = .gate g neg →
        g.val < (byteAt record 4).toNat := by
  simp only [gateOrderOk, List.all_eq_true, List.mem_range, groupLiterals_get]
  refine ⟨fun h i g neg hl => ?_, fun h i hi => ?_⟩
  · have hslot := h i.val i.isLt
    simpa only [hl, decide_eq_true_eq] using hslot
  · split
    next g neg hl => exact decide_eq_true (h ⟨i, hi⟩ g neg hl)
    next => rfl

theorem doDefineGroup_ordered {d : Device} (hok : defineGroupOk head = true) (ho : gateOrderOk head = true) :
    d.doDefineGroup a head = (d.applyGroup head).answer a .done 0 := by
  rw [Device.doDefineGroup, if_pos hok, if_pos ho]

theorem doDefineGroup_unordered {d : Device} (hok : defineGroupOk head = true) (ho : ¬ gateOrderOk head = true) :
    d.doDefineGroup a head = d.answer a .aorder 0 := by
  rw [Device.doDefineGroup, if_pos hok, if_neg ho]

/-! ## The statement -/

/-- The zone in byte 4 of a record, read as a number. -/
theorem zoneNumberOf_eq {z : Fin 8} (h : z.val = (byteAt head 4).toNat) : zoneNumberOf head = z :=
  Fin.ext (by simp only [zoneNumberOf, Fin.val_ofNat]; omega)

/-- Settles O29: the coding of literals, and each record applied to what it names; DEFINE_GROUP by its order check. -/
theorem zonesGroupsAndIntervalDefined : Obligations.ZonesGroupsAndIntervalDefined := by
  refine ⟨fun b => ⟨fun hb => by subst hb; rfl, fun _ => literalOf_input, fun _ => literalOf_gate, literalOf_supok⟩,
    fun s head rest a hconf => ⟨fun z ht hok hz => ?_, fun ht hok => ?_, fun k lits ht hok hk hlits => ?_⟩⟩
  · obtain rfl := zoneNumberOf_eq hz
    exact closes_checked rfl ht (by simp [Device.adminPermitted, hconf]) hok rfl
  · exact closes_checked rfl ht (by simp [Device.adminPermitted, hconf]) hok rfl
  · obtain rfl := groupIndexOf_eq hk
    obtain rfl := groupLiterals_eq hlits
    have hperm : s.dev.adminPermitted .defineGroup = true := by simp [Device.adminPermitted, hconf]
    refine ⟨fun hlower => ?_, fun ⟨i, g, neg, hl, hge⟩ => ?_⟩
    · rw [hk] at hlower
      exact closes_admin rfl ht hperm (doDefineGroup_ordered hok (gateOrderOk_iff.mpr hlower))
    · rw [hk] at hge
      exact closes_admin rfl ht hperm
        (doDefineGroup_unordered hok fun ho => absurd (gateOrderOk_iff.mp ho i g neg hl) (not_lt.mpr hge))

end Sys2Proof.Machine
end

section
/-! ENTER_RUN refused: ACQNR, AOVLP and ADIGEST in the order of the checks (R121, R180; O30). -/

namespace Sys2Proof.Machine

variable {d : Device} {a : Slot} {record : RawRecord}

/-! ## Overlapping zones -/

/-- Two zones overlap: both enabled, and the larger BASE below the smaller end (R121). -/
theorem zonesOverlap_iff {x y : Zone} :
    zonesOverlap x y = true ↔
      x.en = true ∧ y.en = true ∧ x.base < y.base + y.size ∧ y.base < x.base + x.size ∧ x.base < x.base + x.size ∧
        y.base < y.base + y.size := by
  simp only [zonesOverlap, Bool.and_eq_true, decide_eq_true_eq, max_lt_iff, lt_min_iff, and_assoc]
  tauto

/-- The pairs are searched by the lower zone's number, then by the higher's (R121). -/
theorem zonePairs_ordered : zonePairs.Pairwise (fun x y => x.1 < y.1 ∨ x.1 = y.1 ∧ x.2 < y.2) := by decide

/-- The lowest overlapping pair is the one found (R121). -/
theorem overlapPair_eq_some {i j : Fin 8} (hij : i < j) (ho : zonesOverlap d.zones[i] d.zones[j] = true)
    (hlow : ∀ x y : Fin 8, x < y → zonesOverlap d.zones[x] d.zones[y] = true → i < x ∨ i = x ∧ j ≤ y) :
    d.overlapPair = some (i, j) := by
  refine find?_eq_some_of_first zonePairs_ordered (mem_zonePairs.mpr hij) ho fun (x, y) hxy hbefore => ?_
  refine Bool.eq_false_iff.mpr fun hoverlap => ?_
  have hbefore : x < i ∨ x = i ∧ y < j := hbefore
  have hafter := hlow x y (mem_zonePairs.mp hxy) hoverlap
  omega

/-! ## The checks that refuse -/

theorem doEnterRun_acqnr (hok : enterRunOk record = true) (hb : ¬ d.bindingsOk = true) :
    d.doEnterRun a record = d.answer a .acqnr 0 := by
  rw [Device.doEnterRun, if_pos hok, if_neg hb]

theorem doEnterRun_aovlp {p : Fin 8 × Fin 8} (hok : enterRunOk record = true) (hb : d.bindingsOk = true)
    (ho : d.strictOverlap record = some p) :
    d.doEnterRun a record = d.answer a .aovlp (BitVec.ofNat 32 (p.1.val + 256 * p.2.val)) := by
  rw [Device.doEnterRun, if_pos hok, if_pos hb, ho]

theorem doEnterRun_adigest (hok : enterRunOk record = true) (hb : d.bindingsOk = true)
    (ho : d.strictOverlap record = none) (hd : ¬ d.digestOk record = true) :
    d.doEnterRun a record = d.answer a .adigest 0 := by
  rw [Device.doEnterRun, if_pos hok, if_pos hb, ho]
  exact if_neg hd

/-- The taking of an ENTER_RUN reads the bindings that stood before it. -/
theorem takeHead_admin_bindingsOk {head : RawRecord} {rest : List RawRecord} :
    (d.takeHead 0 a head rest).bindingsOk = d.bindingsOk := by
  rw [Bool.eq_iff_iff, bindingsOk_iff, bindingsOk_iff]
  refine forall₂_congr fun r hr => ?_
  rw [takeHead_admin_ring hr]
  rfl

/-- Settles O30: the first check that fails gives the answer. -/
theorem enterRunRefusals : Obligations.EnterRunRefusals := by
  refine ⟨fun _ _ => zonesOverlap_iff, fun s head rest a ht hconf hok => ?_⟩
  have hperm : s.dev.adminPermitted .enterRun = true := by simp [Device.adminPermitted, hconf]
  refine ⟨fun ⟨r, hr, hactive, hbound⟩ => ?_, fun hbind => ?_⟩
  · refine closes_admin rfl ht hperm (doEnterRun_acqnr hok fun hb => ?_)
    rw [takeHead_admin_bindingsOk] at hb
    exact hbound (bindingsOk_iff.mp hb r hr hactive)
  · have hb : (s.dev.takeHead 0 a head rest).bindingsOk = true :=
      takeHead_admin_bindingsOk.trans (bindingsOk_iff.mpr hbind)
    refine ⟨fun i j hstrict hij ho hlow => ?_, fun hzones hpresent hdigest => ?_⟩
    · have hpair : (s.dev.takeHead 0 a head rest).strictOverlap head = some (i, j) :=
        (if_pos hstrict).trans (overlapPair_eq_some hij ho hlow)
      exact closes_admin rfl ht hperm (doEnterRun_aovlp hok hb hpair)
    · exact closes_admin rfl ht hperm (doEnterRun_adigest hok hb (strictOverlap_eq_none_iff.mpr hzones)
        fun hd => hdigest (digestOk_iff.mp hd hpresent))

end Sys2Proof.Machine
end

section
/-! Positions of a ring, counted modulo its size (R134). -/

namespace Sys2Proof.Machine

variable {x y z size : Nat}

/-- The count of positions from `y` to `x`, both inside a ring. -/
theorem indexSub_eq (hx : x < size) (hy : y < size) :
    indexSub x y size = if y ≤ x then x - y else x + size - y := by
  rw [indexSub, Nat.mod_eq_of_lt hy]
  split
  next h => rw [show x + size - y = x - y + size by omega, Nat.add_mod_right, Nat.mod_eq_of_lt (by omega)]
  next h => exact Nat.mod_eq_of_lt (by omega)

theorem indexSub_lt (h : 0 < size) : indexSub x y size < size := Nat.mod_lt _ h

/-- The position after one inside a ring. -/
theorem next_position (hx : x < size) : (x + 1) % size = if x + 1 = size then 0 else x + 1 := by
  split
  next h => rw [h, Nat.mod_self]
  next h => exact Nat.mod_eq_of_lt (by omega)

/-- With room left, a producer that advances adds one to its count. -/
theorem indexSub_next_left (hx : x < size) (hy : y < size) (h : indexSub x y size < size - 1) :
    indexSub ((x + 1) % size) y size = indexSub x y size + 1 := by
  rw [indexSub_eq hx hy] at h ⊢
  rw [indexSub_eq (Nat.mod_lt _ (by omega)) hy, next_position hx]
  split_ifs at h ⊢ <;> omega

/-- A tail that takes one of the records ahead of it leaves one fewer. -/
theorem indexSub_next_right (hx : x < size) (hy : y < size) (h : 0 < indexSub x y size) :
    indexSub x ((y + 1) % size) size = indexSub x y size - 1 := by
  rw [indexSub_eq hx hy] at h ⊢
  rw [indexSub_eq hx (Nat.mod_lt _ (by omega)), next_position hy]
  split_ifs at h ⊢ <;> omega

/-- A consumer that moves to a position within its count leaves the rest of the count. -/
theorem indexSub_moved (hx : x < size) (hy : y < size) (hz : z < size)
    (h : indexSub z y size ≤ indexSub x y size) :
    indexSub x z size = indexSub x y size - indexSub z y size := by
  rw [indexSub_eq hx hy, indexSub_eq hz hy] at h ⊢
  rw [indexSub_eq hx hz]
  split_ifs at h ⊢ <;> omega

/-- Every ring size the block takes is at least 16 (R137, R157, 11.3). -/
theorem isRingSize_ge (h : isRingSize size = true) : 16 ≤ size := by
  simp only [isRingSize, List.contains_eq_mem, List.mem_cons, List.not_mem_nil, or_false, decide_eq_true_eq] at h
  omega

end Sys2Proof.Machine
end

section
/-! What is fetched of a ring stays within its producer and its buffer's places (O59). -/

namespace Sys2Proof.Machine

/-- A ring's indices lie inside it, its buffer and `n` records in flight are within the producer and the buffer's
places, and it holds none of them when it is not ACTIVE: the part of `Device.RingsBounded` on one ring. -/
def Ring.Within (v : Ring) (n : Nat) : Prop :=
  v.tail < v.size ∧ v.producer < v.size ∧ v.buf.length ≤ v.available ∧ v.buf.length + n ≤ bufferDepth ∧
    (v.state ≠ .active → v.buf = [] ∧ n = 0)

variable {c : Instr} {s0 : DState} {d d' : Device} {r q : RingId} {v : Ring} {n : Nat}

theorem ringsBounded_iff : d.RingsBounded ↔ ∀ r : RingId, d.rings[r].Within (d.inFlightCount r) := Iff.rfl

/-- A ring with nothing in flight and an empty buffer needs its indices inside it alone. -/
theorem within_of_empty (ht : v.tail < v.size) (hp : v.producer < v.size) (hb : v.buf = []) : v.Within 0 := by
  unfold Ring.Within
  rw [hb]
  exact ⟨ht, hp, Nat.zero_le _, Nat.zero_le _, fun _ => ⟨rfl, rfl⟩⟩

/-! ## The records in flight -/

theorem inFlightCount_of_idle (h : d.channel = none) (r : RingId) : d.inFlightCount r = 0 := by
  rw [Device.inFlightCount, h]

theorem inFlightCount_of_read {op : ReadOp} (h : d.channel = some op) (r : RingId) :
    d.inFlightCount r = if op.ring = r && !op.discard then op.count else 0 := by
  rw [Device.inFlightCount, h]

/-- A read marked discard is no longer counted (R146). -/
theorem inFlightCount_dropBuffer (d : Device) (r q : RingId) :
    (d.dropBuffer r).inFlightCount q = if q = r then 0 else d.inFlightCount q := by
  cases hc : d.channel with
  | none => simp [Device.inFlightCount, Device.dropBuffer, hc]
  | some op =>
    by_cases ho : op.ring = r
    · subst ho
      by_cases hq : q = op.ring
      · simp [Device.inFlightCount, Device.dropBuffer, hc, hq]
      · simp [Device.inFlightCount, Device.dropBuffer, hc, hq, Ne.symm hq]
    · by_cases hq : q = r <;> simp [Device.inFlightCount, Device.dropBuffer, hc, ho, hq]

theorem inFlightCount_halt (d : Device) (reason : HReason) (r : RingId) : (d.halt reason).inFlightCount r = 0 := by
  cases hc : d.channel <;> simp [Device.inFlightCount, Device.halt, hc]

/-! ## The updates of the rings and the channel -/

/-- One ring replaced, with the channel as it is. -/
theorem setRing_ringsBounded (h : d.RingsBounded) (hv : v.Within (d.inFlightCount r)) :
    (d.setRing r v).RingsBounded := fun q => by
  change (d.setRing r v).rings[q].Within (d.inFlightCount q)
  rw [setRing_ring]
  split
  next hq => exact hq ▸ hv
  · exact h q

/-- One ring replaced that has no read in flight. -/
theorem setRing_idle_ringsBounded (h : d.RingsBounded) (hnone : d.inFlightCount r = 0) (hv : v.Within 0) :
    (d.setRing r v).RingsBounded :=
  setRing_ringsBounded h (by rw [hnone]; exact hv)

/-- A channel freed (R144, R145). -/
theorem readEnded_ringsBounded (h : d.RingsBounded) : ({ d with channel := none } : Device).RingsBounded := fun q => by
  obtain ⟨ht, hp, ha, hn, hs⟩ := h q
  exact ⟨ht, hp, ha, (Nat.le_add_right _ _).trans hn, fun hq => ⟨(hs hq).1, rfl⟩⟩

/-- A ring's buffer dropped and its read marked discard (R146), for a ring in any state. -/
theorem dropBuffer_ringsBounded (ht : d.rings[r].tail < d.rings[r].size) (hp : d.rings[r].producer < d.rings[r].size)
    (h : ∀ q : RingId, q ≠ r → d.rings[q].Within (d.inFlightCount q)) : (d.dropBuffer r).RingsBounded := by
  intro q
  change (d.dropBuffer r).rings[q].Within ((d.dropBuffer r).inFlightCount q)
  rw [dropBuffer_ring, inFlightCount_dropBuffer]
  split
  next hq =>
    subst hq
    exact within_of_empty ht hp rfl
  next hq => exact h q hq

/-- A producer that covers the buffer (R139, R140). -/
theorem within_produced {i : Nat} (h : v.Within n) (hi : i < v.size) (hb : v.buf.length ≤ indexSub i v.tail v.size) :
    ({ v with producer := i } : Ring).Within n := by
  obtain ⟨ht, -, -, hn, hs⟩ := h
  exact ⟨ht, hi, hb, hn, hs⟩

/-- The head of the buffer taken, and the tail with it (R53). -/
theorem within_taken {head : RawRecord} {rest : List RawRecord} (h : v.Within n) (hb : v.buf = head :: rest) :
    ({ v with buf := rest, tail := (v.tail + 1) % v.size } : Ring).Within n := by
  obtain ⟨ht, hp, ha, hn, hs⟩ := h
  rw [hb] at ha hn hs
  rw [Ring.available] at ha
  have hlength : (head :: rest).length = rest.length + 1 := rfl
  have hnext := indexSub_next_right hp ht (by omega)
  refine ⟨Nat.mod_lt _ (by omega), hp, ?_, ?_, fun hq => nomatch (hs hq).1⟩
  · change rest.length ≤ indexSub v.producer ((v.tail + 1) % v.size) v.size
    omega
  · change rest.length + n ≤ bufferDepth
    omega

/-- The records of a read join the buffer (R144). -/
theorem within_arrived {records : List RawRecord} (h : v.Within n) (hn : records.length = n)
    (ha : v.buf.length + n ≤ v.available) : ({ v with buf := v.buf ++ records } : Ring).Within 0 := by
  obtain ⟨ht, hp, -, hroom, hs⟩ := h
  have hlength : (v.buf ++ records).length = v.buf.length + n := by rw [List.length_append, hn]
  refine ⟨ht, hp, hlength.trans_le ha, hlength.trans_le hroom, fun hq => ⟨?_, rfl⟩⟩
  obtain ⟨hbuf, hnone⟩ := hs hq
  exact List.append_eq_nil_iff.mpr ⟨hbuf, List.length_eq_zero_iff.mp (hn.trans hnone)⟩

/-- The arrival of the read in flight (R144). -/
theorem arrived_ringsBounded {op : ReadOp} {records : List RawRecord} (h : d.RingsBounded)
    (hc : d.channel = some op) (hd : op.discard = false) (hn : records.length = op.count)
    (ha : d.rings[op.ring].buf.length + op.count ≤ d.rings[op.ring].available) :
    (({ d with channel := none } : Device).setRing op.ring
      { d.rings[op.ring] with buf := d.rings[op.ring].buf ++ records }).RingsBounded := by
  have hcount : d.inFlightCount op.ring = op.count := by simp [inFlightCount_of_read hc, hd]
  exact setRing_ringsBounded (readEnded_ringsBounded h)
    (within_arrived (ringsBounded_iff.mp h op.ring) (hn.trans hcount.symm) (hcount ▸ ha))

/-- A grant reads no more than the buffer has room for (R143). -/
theorem granted_ringsBounded (h : d.RingsBounded) (hreq : d.requests r = true) (hc : d.channel = none) :
    ({ d with channel := some (d.readFor r) } : Device).RingsBounded := fun q => by
  obtain ⟨ht, hp, ha, hn, hs⟩ := h q
  rw [inFlightCount_of_idle hc] at hn
  rw [inFlightCount_of_read (op := d.readFor r) rfl]
  by_cases hq : r = q
  · subst hq
    simp only [Device.requests, Bool.and_eq_true, beq_iff_eq] at hreq
    obtain ⟨⟨⟨-, hactive⟩, -⟩, -⟩ := hreq
    have hcount : d.rings[r].grantCount ≤ bufferDepth - d.rings[r].buf.length :=
      (min_le_left _ _).trans (min_le_left _ _)
    refine ⟨ht, hp, ha, ?_, fun hq => absurd hactive hq⟩
    simp only [Device.readFor, decide_true, Bool.not_false, Bool.and_self, if_true]
    omega
  · have hzero : (if (d.readFor r).ring = q && !(d.readFor r).discard then (d.readFor r).count else 0) = 0 :=
      if_neg (by simp [Device.readFor, hq])
    rw [hzero]
    exact ⟨ht, hp, ha, hn, fun hq => ⟨(hs hq).1, rfl⟩⟩

/-- A ring configured anew has no read in flight, for it was DISABLED (R137). -/
theorem configured_ringsBounded {record : RawRecord} (h : d.RingsBounded) (hok : configureRingOk record = true)
    (hs : d.rings[ringNumberOf record].state = .disabled) :
    (d.setRing (ringNumberOf record) (configuredRing record)).RingsBounded := by
  obtain ⟨-, -, -, -, hidle⟩ := h (ringNumberOf record)
  obtain ⟨-, hnone⟩ := hidle (by rw [hs]; decide)
  have hsize : 0 < (halfAt record 8).toNat := by
    simp only [configureRingOk, Bool.and_eq_true] at hok
    obtain ⟨⟨⟨⟨-, hring⟩, -⟩, -⟩, -⟩ := hok
    exact Nat.lt_of_lt_of_le (by decide) (isRingSize_ge hring)
  exact setRing_idle_ringsBounded h hnone (within_of_empty hsize hsize rfl)

/-- The end of a ring reset finds nothing fetched (R151). -/
theorem restarted_ringsBounded (h : d.RingsBounded) (st : RingState) (cause : FaultCause)
    (hs : d.rings[r].state = .resetting) :
    (d.setRing r { d.rings[r] with tail := 0, producer := 0, state := st, cause := cause }).RingsBounded := by
  obtain ⟨ht, -, -, -, hidle⟩ := h r
  obtain ⟨hbuf, hnone⟩ := hidle (by rw [hs]; decide)
  have hsize : 0 < d.rings[r].size := by omega
  exact setRing_idle_ringsBounded h hnone (within_of_empty hsize hsize hbuf)

/-- A good bootstrap block gives ring 0 a size (R178). -/
theorem booted_ringsBounded {b : BootBlock} (h : d.RingsBounded) (hb : bootBlockOk b = true) :
    (d.bootSucceeds b).RingsBounded := by
  obtain ⟨-, -, -, hroom, -⟩ := h 0
  have hsize : 0 < (halfAt b 16).toNat := by
    simp only [bootBlockOk, Bool.and_eq_true, decide_eq_true_eq] at hb
    obtain ⟨⟨⟨⟨⟨⟨⟨-, hmin⟩, -⟩, -⟩, -⟩, -⟩, -⟩, -⟩ := hb
    omega
  have hring : (d.setRing 0 (bootRing b d.rings[(0 : RingId)])).RingsBounded :=
    setRing_ringsBounded h
      ⟨hsize, hsize, Nat.zero_le _, (Nat.add_le_add_right (Nat.zero_le _) _).trans hroom, fun hq => absurd rfl hq⟩
  exact hring

/-- The halt drops every buffer and the read in flight (R146, R184). -/
theorem halted_ringsBounded (h : d.RingsBounded) (reason : HReason) : (d.halt reason).RingsBounded := fun q => by
  change (d.halt reason).rings[q].Within ((d.halt reason).inFlightCount q)
  obtain ⟨ht, hp, -⟩ := h q
  rw [inFlightCount_halt]
  have hring : (d.halt reason).rings[q] = { d.rings[q] with buf := [] } := by simp [Device.halt]
  rw [hring]
  exact within_of_empty ht hp rfl

/-! ## Every small change -/

/-- Every small change keeps the bounds of the submission rings. -/
theorem Change.ringsBounded (h : Change c s0 d d') (hb : d.RingsBounded) : d'.RingsBounded := by
  cases h
  case queue n _ | cause n _ _ | writeIssued n _ _ | writeAccepted n _ | consumed n _ _ => cases n <;> exact hb
  case bufferDropped r => exact dropBuffer_ringsBounded (hb r).1 (hb r).2.1 fun q _ => hb q
  case ringStopped r st cause _ _ _ =>
    obtain ⟨ht, hp, -⟩ := hb r
    have hring := setRing_ring d r
    refine dropBuffer_ringsBounded ?_ ?_ fun q hq => ?_
    · rw [hring, if_pos rfl]; exact ht
    · rw [hring, if_pos rfl]; exact hp
    · rw [hring, if_neg hq]; exact hb q
  case ringRestarted r st cause hs _ => exact restarted_ringsBounded hb st cause hs
  case ringConfigured record hok hs => exact configured_ringsBounded hb hok hs
  case produced r i hi hcover => exact setRing_ringsBounded hb (within_produced (hb r) hi hcover)
  case taken r head rest a ht =>
    obtain ⟨hbuf, -, -⟩ := taken?_eq_some_iff.mp ht
    exact setRing_ringsBounded hb (within_taken (hb r) hbuf)
  case granted r hreq hc => exact granted_ringsBounded hb hreq hc
  case readEnded => exact readEnded_ringsBounded hb
  case arrived op records hc hd hn ha => exact arrived_ringsBounded hb hc hd hn ha
  case booted b _ _ _ hok => exact booted_ringsBounded hb hok
  case halted reason _ _ _ => exact halted_ringsBounded hb reason
  all_goals exact hb

end Sys2Proof.Machine
end

section
/-! The counts of the completion rings (R159, R161, R164), and the bounds of both kinds of ring at every step (O59). -/

namespace Sys2Proof.Machine

variable {c : Instr} {s0 : DState} {d d' : Device} {n : CRingId} {v : CRing}

theorem cring_bounded (h : d.CompletionsBounded) (n : CRingId) : (d.cring n).Bounded := by
  cases n
  · exact h.1
  · exact h.2

theorem setCRing_bounded (h : d.CompletionsBounded) (hv : v.Bounded) : (d.setCRing n v).CompletionsBounded := by
  cases n
  · exact ⟨hv, h.2⟩
  · exact ⟨h.1, hv⟩

/-- A completion ring that is empty and carries no write needs a size alone. -/
theorem bounded_of_empty (hsize : 0 < v.size) (hp : v.producer = 0) (hc : v.consumer = 0) (hi : v.inflight = none) :
    v.Bounded := by
  refine ⟨hp ▸ hsize, hc ▸ hsize, Nat.le_sub_one_of_lt (indexSub_lt hsize), fun h => absurd hi h⟩

/-- A completion ring with the counts of a bounded one and no write in flight. -/
theorem bounded_without_write {w : CRing} (h : v.Bounded) (hp : w.producer = v.producer)
    (hc : w.consumer = v.consumer) (hs : w.size = v.size) (hi : w.inflight = none) : w.Bounded := by
  obtain ⟨hproducer, hconsumer, hcount, -⟩ := h
  unfold CRing.Bounded CRing.unconsumed
  rw [hp, hc, hs]
  exact ⟨hproducer, hconsumer, hcount, fun h => absurd hi h⟩

/-- Coalescing touches the cause and the countdown alone (R166). -/
theorem coalesce_bounded (h : v.Bounded) (now : Time) : (v.coalesce now).Bounded := by
  unfold CRing.coalesce
  repeat' split
  all_goals exact h

/-- An accepted write takes the room it was issued into (R159, R161). -/
theorem accepted_bounded (h : v.Bounded) (hi : v.inflight.isSome = true) (now : Time) : (v.accepted now).Bounded := by
  obtain ⟨hp, hc, -, hroom⟩ := h
  have hleft : indexSub v.producer v.consumer v.size < v.size - 1 :=
    of_decide_eq_true (hroom (Option.isSome_iff_ne_none.mp hi))
  apply coalesce_bounded
  have hcount := (indexSub_next_left hp hc hleft).trans_le hleft
  exact ⟨Nat.mod_lt _ (Nat.zero_lt_of_lt hp), hc, hcount, fun h => absurd rfl h⟩

/-- A consumer moved within the count leaves fewer records unconsumed (R164). -/
theorem consumed_bounded {i : Nat} (h : v.Bounded) (hi : i < v.size)
    (hle : indexSub i v.consumer v.size ≤ v.unconsumed) : ({ v with consumer := i } : CRing).Bounded := by
  obtain ⟨hp, hc, hn, hroom⟩ := h
  have hmoved : indexSub v.producer i v.size = v.unconsumed - indexSub i v.consumer v.size :=
    indexSub_moved hp hc hi hle
  have hcount : ({ v with consumer := i } : CRing).unconsumed ≤ v.unconsumed := hmoved.trans_le (Nat.sub_le _ _)
  refine ⟨hp, hi, hcount.trans hn, fun hw => ?_⟩
  exact decide_eq_true (hcount.trans_lt (of_decide_eq_true (hroom hw)))

/-- A write is issued where room is present (R159). -/
theorem issued_bounded {w : CWrite} (h : d.CompletionsBounded) (hm : d.mayIssue n = true) :
    ({ d.cring n with inflight := some w } : CRing).Bounded := by
  obtain ⟨hp, hc, hn, -⟩ := cring_bounded h n
  simp only [Device.mayIssue, Bool.and_eq_true] at hm
  exact ⟨hp, hc, hn, fun _ => hm.2⟩

/-- THRESH within 1 to size - 1 asks for a size (R157, 11.3). -/
theorem size_pos_of_threshOk {thresh size : Nat} (h : threshOk thresh size = true) : 0 < size := by
  simp only [threshOk, Bool.and_eq_true, decide_eq_true_eq] at h
  omega

/-- Every small change keeps the bounds of the completion rings. -/
theorem Change.completionsBounded (h : Change c s0 d d') (hb : d.CompletionsBounded) : d'.CompletionsBounded := by
  cases h
  case queue n q => exact setCRing_bounded hb (cring_bounded hb n)
  case cause n ic countdown => exact setCRing_bounded hb (cring_bounded hb n)
  case writeIssued n w hm => exact setCRing_bounded hb (issued_bounded hb hm)
  case writeAccepted n hi => exact setCRing_bounded hb (accepted_bounded (cring_bounded hb n) hi d.now)
  case consumed n x hok =>
    simp only [Device.consumerOk, Bool.and_eq_true, decide_eq_true_eq] at hok
    obtain ⟨⟨-, hindex⟩, hcount⟩ := hok
    exact setCRing_bounded hb (consumed_bounded (cring_bounded hb n) hindex hcount)
  case c1Faulted => exact ⟨hb.1, bounded_without_write hb.2 rfl rfl rfl rfl⟩
  case c1Configured record hok =>
    simp only [configureCompletionOk, Bool.and_eq_true] at hok
    exact ⟨hb.1, bounded_of_empty (size_pos_of_threshOk hok.2) rfl rfl rfl⟩
  case booted b _ _ _ hok =>
    simp only [bootBlockOk, Bool.and_eq_true] at hok
    exact ⟨bounded_of_empty (size_pos_of_threshOk hok.1.2) rfl rfl rfl, hb.2⟩
  case halted =>
    exact ⟨bounded_without_write hb.1 rfl rfl rfl rfl, bounded_without_write hb.2 rfl rfl rfl rfl⟩
  all_goals exact hb

/-- Settles O59: a reset gives the bounds, and the tick and every small change keep them. -/
theorem indicesBoundedKept : Obligations.IndicesBoundedKept := fun _ _ hrings hcompletions hst =>
  ⟨step_keeps applyReset_ringsBounded (fun _ h => h) (fun _ _ _ _ => Change.ringsBounded) hrings hst,
    step_keeps (fun _ _ => ⟨atReset_bounded, atReset_bounded⟩) (fun _ h => h)
      (fun _ _ _ _ => Change.completionsBounded) hcompletions hst⟩

end Sys2Proof.Machine
end

section
/-! PRODUCER writes: accepted, faulting their ring, or discarded (R138 to R140, R195; O9, O10). -/

namespace Sys2Proof.Machine

variable {d : Device} {s : State} {v : Word} {r : RingId}

/-! ## The fields of the value -/

theorem indexField_eq (v : Word) : indexField v = v.toNat % 4096 := by
  rw [indexField, BitVec.extractLsb'_toNat, Nat.shiftRight_zero]

theorem ringField_eq (v : Word) : ringField v = v.toNat / 65536 % 8 := by
  rw [ringField, BitVec.extractLsb'_toNat, Nat.shiftRight_eq_div_pow]

theorem indexReservedOk_iff (v : Word) :
    indexReservedOk v = true ↔ v.toNat / 4096 % 16 = 0 ∧ v.toNat / 524288 = 0 := by
  have hv := v.isLt
  simp only [indexReservedOk, Bool.and_eq_true, beq_iff_eq, BitVec.toNat_eq, BitVec.extractLsb'_toNat,
    Nat.shiftRight_eq_div_pow, BitVec.ofNat_eq_ofNat, BitVec.toNat_ofNat]
  omega

theorem operational_iff :
    d.operational = true ↔ d.dstate = .configure ∨ d.dstate = .run ∨ d.dstate = .draining := by
  simp only [Device.operational, Bool.or_eq_true, beq_iff_eq, or_assoc]

theorem operational_of_halted (h : d.dstate = .halted) : d.operational = false := by
  rw [Device.operational, h]
  rfl

/-! ## The ring a write is checked for -/

theorem closes_producerWrite {x : Device} (hx : s.dev.producerEffect v = x) : Closes (.producerWrite v) s x :=
  closes_event (f := Device.producerEffect v) rfl hx

/-- In an operating state a value without reserved bits is checked for the ring it names (R138). -/
theorem producerEffect_checked (ho : d.operational = true) (hv : indexReservedOk v = true) (hr : ringField v = r.val) :
    d.producerEffect v = if r = 0 then d.producerAdmin v else d.producerAction r v := by
  have hring : Fin.ofNat 5 r.val = r := Fin.ofNat_val_eq_self r
  have hle : r.val ≤ 4 := Nat.le_of_lt_succ r.isLt
  simp only [Device.producerEffect, ho, hv, hr, hring, hle, decide_true, Bool.and_self, if_true, Fin.val_eq_zero_iff]

/-- Every other write is discarded (R138, R195). -/
theorem producerEffect_discarded (h : d.operational = false ∨ indexReservedOk v = false ∨ 4 < ringField v) :
    d.producerEffect v = d.discardIndex := by
  refine if_neg fun hchecked => ?_
  simp only [Bool.and_eq_true, decide_eq_true_eq] at hchecked
  obtain ⟨⟨ho, hv⟩, hr⟩ := hchecked
  obtain h | h | h := h
  · exact Bool.false_ne_true (h.symm.trans ho)
  · exact Bool.false_ne_true (h.symm.trans hv)
  · omega

/-! ## Action rings (R139) -/

theorem producerAction_accepted (hs : d.rings[r].state = .active) (hi : indexField v < d.rings[r].size)
    (hb : d.rings[r].buf.length ≤ indexSub (indexField v) d.rings[r].tail d.rings[r].size) :
    d.producerAction r v = d.acceptProducer r v := by
  rw [Device.producerAction, if_pos (beq_iff_eq.mpr hs), if_neg (not_le.mpr hi), if_neg (not_lt.mpr hb)]

theorem producerAction_badprod (hs : d.rings[r].state = .active) (hi : d.rings[r].size ≤ indexField v) :
    d.producerAction r v = d.ringFault r .badprod := by
  rw [Device.producerAction, if_pos (beq_iff_eq.mpr hs), if_pos hi]

theorem producerAction_regress (hs : d.rings[r].state = .active) (hi : indexField v < d.rings[r].size)
    (hb : indexSub (indexField v) d.rings[r].tail d.rings[r].size < d.rings[r].buf.length) :
    d.producerAction r v = d.ringFault r .regress := by
  rw [Device.producerAction, if_pos (beq_iff_eq.mpr hs), if_neg (not_le.mpr hi), if_pos hb]

theorem producerAction_inactive (hs : d.rings[r].state ≠ .active) : d.producerAction r v = d.discardIndex :=
  if_neg fun h => hs (beq_iff_eq.mp h)

/-! ## Ring 0 (R140) -/

/-- A ring 0 index is refused when it is outside the ring, or does not cover the buffer and the read in flight. -/
def Device.AdminIndexRefused (d : Device) (v : Word) : Prop :=
  d.rings[(0 : RingId)].size ≤ indexField v ∨
    indexSub (indexField v) d.rings[(0 : RingId)].tail d.rings[(0 : RingId)].size <
      d.rings[(0 : RingId)].buf.length + d.inFlightCount 0

theorem producerAdmin_refused (h : d.AdminIndexRefused v) : d.producerAdmin v = d.discardIndex := by
  unfold Device.producerAdmin
  split
  · rfl
  next hi => exact if_pos (h.resolve_left hi)

theorem producerAdmin_accepted (h : ¬ d.AdminIndexRefused v) : d.producerAdmin v = d.acceptProducer 0 v := by
  obtain ⟨hi, hb⟩ := not_or.mp h
  rw [Device.producerAdmin, if_neg hi, if_neg hb]

/-! ## The statements -/

/-- Settles O9: the fields of the value, and the acceptance for an action ring and for ring 0. -/
theorem producerWriteAccepted : Obligations.ProducerWriteAccepted := by
  refine ⟨fun v => ⟨indexField_eq v, ringField_eq v, indexReservedOk_iff v⟩, fun _ => operational_iff,
    fun _ _ _ => indexSub_eq, fun s v r ho hv hr hi haction hadmin => closes_producerWrite ?_⟩
  rw [producerEffect_checked ho hv hr]
  by_cases hzero : r = 0
  · subst hzero
    exact producerAdmin_accepted (not_or.mpr ⟨not_le.mpr hi, not_lt.mpr (hadmin rfl)⟩)
  · obtain ⟨hs, hb⟩ := haction hzero
    rw [if_neg hzero, producerAction_accepted hs hi hb]
    rfl

/-- Settles O10: the two faults of an ACTIVE action ring, and the discarded writes by what refuses them. -/
theorem producerWriteNotAccepted : Obligations.ProducerWriteNotAccepted := by
  refine fun s v => ⟨fun r hzero ho hv hr hs => ⟨fun hi => ?_, fun hi hb => ?_⟩, fun hhalted => ?_,
    fun hnot hrefused => ?_⟩
  · exact closes_producerWrite
      ((producerEffect_checked ho hv hr).trans ((if_neg hzero).trans (producerAction_badprod hs hi)))
  · exact closes_producerWrite
      ((producerEffect_checked ho hv hr).trans ((if_neg hzero).trans (producerAction_regress hs hi hb)))
  · refine closes_producerWrite ((producerEffect_discarded (.inl (operational_of_halted hhalted))).trans ?_)
    exact if_pos (beq_iff_eq.mpr hhalted)
  · have hraised : s.dev.discardIndex = { s.dev with alert := s.dev.alert ||| 0x80 } :=
      if_neg fun h => hnot (beq_iff_eq.mp h)
    refine closes_producerWrite (Eq.trans ?_ hraised)
    by_cases hunchecked : s.dev.operational = false ∨ indexReservedOk v = false ∨ 4 < ringField v
    · exact producerEffect_discarded hunchecked
    · simp only [not_or, Bool.not_eq_false] at hunchecked
      obtain ⟨ho, hv, hle⟩ := hunchecked
      obtain h | h | h | ⟨r, hzero, hr, hs⟩ | ⟨hr, hindex⟩ := hrefused
      · exact absurd ho (ne_true_of_eq_false h)
      · exact absurd hv (ne_true_of_eq_false h)
      · exact absurd h hle
      · rw [producerEffect_checked ho hv hr, if_neg hzero, producerAction_inactive hs]
      · rw [producerEffect_checked ho hv (r := 0) hr, if_pos rfl, producerAdmin_refused hindex]

end Sys2Proof.Machine
end

section
/-! CONFIGURE_RING, CONFIGURE_COMPLETION and the RING_RESET that begins (R137, R150, R157; O27, O35). -/

namespace Sys2Proof.Machine

variable {s : State} {d : Device} {head : RawRecord} {rest : List RawRecord} {a b : Slot} {r : RingId}

theorem ringNumberOf_ne_zero (h : ringNumberOk head = true) : ringNumberOf head ≠ 0 := fun hzero => by
  have hval := congrArg Fin.val hzero
  simp only [ringNumberOk, Bool.and_eq_true, decide_eq_true_eq] at h
  simp only [ringNumberOf, Fin.val_ofNat, Fin.val_zero] at hval
  omega

/-! ## CONFIGURE_RING -/

theorem configureRingOk_ringNumberOk (h : configureRingOk head = true) : ringNumberOk head = true := by
  simp only [configureRingOk, Bool.and_eq_true] at h
  obtain ⟨⟨⟨⟨⟨⟨-, hring⟩, -⟩, -⟩, -⟩, -⟩, -⟩ := h
  exact hring

/-- The binding as byte 5 codes it (12.1). -/
theorem cringCodeOf_eq (b : Byte) : cringCodeOf b = if b = 1 then .c1 else .c0 := by
  simp only [cringCodeOf, beq_iff_eq]

theorem doConfigureRing_disabled (hok : configureRingOk head = true)
    (hs : d.rings[ringNumberOf head].state = .disabled) :
    d.doConfigureRing a head = (d.setRing (ringNumberOf head) (configuredRing head)).answer a .done 0 := by
  rw [Device.doConfigureRing, if_pos hok, if_pos (beq_iff_eq.mpr hs)]

theorem doConfigureRing_enabled (hok : configureRingOk head = true)
    (hs : d.rings[ringNumberOf head].state ≠ .disabled) : d.doConfigureRing a head = d.answer a .astate 0 := by
  rw [Device.doConfigureRing, if_pos hok, if_neg fun h => hs (beq_iff_eq.mp h)]

/-- Settles O27: the record names an action ring, whose state the taking leaves; C1 is a checked record. -/
theorem ringsConfigured : Obligations.RingsConfigured := by
  intro s head rest a hconf
  refine ⟨fun r ht hok hr => ?_, fun ht hok => ?_⟩
  · obtain rfl := ringNumberOf_eq hr
    have hperm : s.dev.adminPermitted .configureRing = true := by simp [Device.adminPermitted, hconf]
    have hring := takeHead_admin_ring (d := s.dev) (head := head) (rest := rest) (a := a)
      (ringNumberOf_ne_zero (configureRingOk_ringNumberOk hok))
    refine ⟨fun hs => ?_, fun hs => ?_⟩
    · refine closes_admin rfl ht hperm ((doConfigureRing_disabled hok (hring.symm ▸ hs)).trans ?_)
      rw [configuredRing, cringCodeOf_eq]
    · exact closes_admin rfl ht hperm (doConfigureRing_enabled hok (hring.symm ▸ hs))
  · exact closes_checked rfl ht (by simp [Device.adminPermitted, hconf]) hok rfl

/-! ## RING_RESET -/

theorem ringResetOk_ringNumberOk (h : ringResetOk head = true) : ringNumberOk head = true := by
  simp only [ringResetOk, Bool.and_eq_true] at h
  obtain ⟨⟨-, hring⟩, -⟩ := h
  exact hring

theorem doRingReset_begins (hok : ringResetOk head = true)
    (hs : d.rings[ringNumberOf head].state = .active ∨ d.rings[ringNumberOf head].state = .faulted) :
    d.doRingReset a head = ((d.setEntryState a .adminActive).startReset (ringNumberOf head)).endOps := by
  rw [Device.doRingReset, if_pos hok, if_pos (by simpa using hs)]

theorem doRingReset_refused (hok : ringResetOk head = true)
    (hs : ¬ (d.rings[ringNumberOf head].state = .active ∨ d.rings[ringNumberOf head].state = .faulted)) :
    d.doRingReset a head = d.answer a .astate 0 := by
  rw [Device.doRingReset, if_pos hok, if_neg (by simpa using hs)]

/-- The block whose RING_RESET of ring `r` is taken and ADMIN_ACTIVE, with the ring RESETTING, its buffer dropped and
its read marked discard, before its live entries are answered (R146, R150). -/
def Device.resetTaken (d : Device) (head : RawRecord) (rest : List RawRecord) (a : Slot) (r : RingId) : Device :=
  { (d.takeHead 0 a head rest).setRing r { d.rings[r] with state := .resetting, buf := [] } with
    slots := d.slots.set a (some (d.entryOf 0 head .adminActive))
    channel := d.channel.map (fun op => if op.ring = r then { op with discard := true } else op) }

theorem startReset_taken (hr : r ≠ 0) :
    ((d.takeHead 0 a head rest).setEntryState a .adminActive).startReset r =
      (d.resetTaken head rest a r).cancelRing r .cxreset := by
  rw [takeHead_setEntryState, Device.startReset]
  congr 1
  have hring : ((d.takeHead 0 a head rest).setSlot a (some (d.entryOf 0 head .adminActive))).rings[r] = d.rings[r] :=
    takeHead_admin_ring (head := head) (a := a) hr
  rw [hring]
  simp [Device.resetTaken, Device.dropBuffer, Device.setRing, Device.setSlot]

theorem resetTaken_slot_same : (d.resetTaken head rest a r).slots[a] = some (d.entryOf 0 head .adminActive) := by
  simp [Device.resetTaken]

theorem resetTaken_slot_ne (h : b ≠ a) : (d.resetTaken head rest a r).slots[b] = d.slots[b] := by
  simp [Device.resetTaken, Fin.val_inj, h.symm]

/-- The RING_RESET's own entry is none of the ring it resets. -/
theorem resetBegun_slot (hr : r ≠ 0) :
    ((d.resetTaken head rest a r).cancelRing r .cxreset).slots[a] = some (d.entryOf 0 head .adminActive) := by
  rw [cancelRing_slot, resetTaken_slot_same, if_neg]
  simp [isLiveOf, Device.entryOf, hr.symm]

/-- A cancelled entry is answered or freed, so a slot that is ADMIN_ACTIVE after a cancellation was so before. -/
theorem isAdminActive_of_cancelRing {st : Status} (h : isAdminActive (d.cancelRing r st).slots[b] = true) :
    isAdminActive d.slots[b] = true := by
  rw [cancelRing_slot] at h
  split at h
  · cases he : d.slots[b] with
    | none => simp [he, isAdminActive] at h
    | some e =>
      rw [he] at h
      split at h <;> simp [isAdminActive] at h
  · exact h

/-- The RING_RESET is then the one active admin operation (R46). -/
theorem resetBegun_active (ht : d.Takes 0 head rest a) (hr : r ≠ 0) :
    ((d.resetTaken head rest a r).cancelRing r .cxreset).adminActive? = some a := by
  obtain ⟨ha, -, hidle⟩ := takes_admin_slot d ht
  refine find?_eq_some_of_unique (mem_poolSlots_admin.mpr ha) (by rw [resetBegun_slot hr]; rfl) fun b hb hactive => ?_
  by_contra hne
  have hbefore := isAdminActive_of_cancelRing hactive
  rw [resetTaken_slot_ne hne] at hbefore
  exact List.find?_eq_none.mp hidle b hb hbefore

/-- The reset's end is looked for at once, and comes when the ring holds no entry (R50, R151). -/
theorem resetBegun_endOps {x : Device} (ht : d.TakesAdmin .ringReset head rest a) (hr : ringNumberOf head ≠ 0)
    (hx : x = (d.resetTaken head rest a (ringNumberOf head)).cancelRing (ringNumberOf head) .cxreset) :
    x.endOps = if x.held (ringNumberOf head) = 0 then x.endReset a head else x := by
  have hactive : x.adminActive? = some a := hx ▸ resetBegun_active ht.1 hr
  have hslot : x.slots[a] = some (d.entryOf 0 head .adminActive) := hx ▸ resetBegun_slot hr
  refine (endOps_ringReset hactive hslot ht.2).trans ?_
  split
  · rfl
  next hheld =>
    refine if_neg fun hempty => hheld ?_
    rw [Bool.and_eq_true, beq_iff_eq, beq_iff_eq] at hempty
    exact hempty.2

/-- Settles O35: the state of the ring decides between the reset's beginning and ASTATE. -/
theorem ringResetBegins : Obligations.RingResetBegins := by
  intro s head rest a r x ht hstate hok hnumber
  obtain rfl := ringNumberOf_eq hnumber
  have hr := ringNumberOf_ne_zero (ringResetOk_ringNumberOk hok)
  have hperm : s.dev.adminPermitted .ringReset = true := by simpa [Device.adminPermitted] using hstate
  have hring := takeHead_admin_ring (d := s.dev) (head := head) (rest := rest) (a := a) hr
  refine ⟨fun hs hx => ?_, fun hs => ?_⟩
  · refine closes_admin rfl ht hperm ((doRingReset_begins hok (hring.symm ▸ hs)).trans ?_)
    rw [startReset_taken hr, ← resetBegun_endOps ht hr hx, hx]
    rfl
  · refine closes_admin rfl ht hperm (doRingReset_refused hok fun hbegins => ?_)
    rw [hring] at hbegins
    obtain hs | hs := hs <;> rw [hs] at hbegins <;> exact absurd hbegins (by decide)

end Sys2Proof.Machine
end

section
/-! The end of a read and the grant of the read channel (R141 to R145; O47, O52). -/

namespace Sys2Proof.Machine

variable {s : State} {d x : Device} {op : ReadOp} {r : RingId}

/-! ## The arrival -/

/-- A read in flight arrives with as many records as it asked for (R144). -/
theorem closes_readArrival {records : List RawRecord} (hc : s.dev.channel = some op)
    (hn : records.length = op.count) (hx : s.dev.arrive op records = x) : Closes (.readArrival records) s x := by
  refine closes_event (f := Device.arrive op records) ?_ hx
  simp only [exec, execReadArrival, State.run, hc, hn, if_true]

theorem arrive_discarded {records : List RawRecord} (hd : op.discard = true) :
    d.arrive op records = { d with channel := none } := if_pos hd

theorem arrive_regress {records : List RawRecord} (hd : op.discard = false)
    (h : d.rings[op.ring].available < d.rings[op.ring].buf.length + op.count) :
    d.arrive op records = ({ d with channel := none } : Device).ringFault op.ring .regress :=
  (if_neg (Bool.eq_false_iff.mp hd)).trans (if_pos h)

theorem arrive_joins {records : List RawRecord} (hd : op.discard = false)
    (h : d.rings[op.ring].buf.length + op.count ≤ d.rings[op.ring].available) :
    d.arrive op records =
      ({ d with channel := none } : Device).setRing op.ring
        { d.rings[op.ring] with buf := d.rings[op.ring].buf ++ records } :=
  (if_neg (Bool.eq_false_iff.mp hd)).trans (if_neg (not_lt.mpr h))

/-! ## The failure -/

theorem exec_readFailure {how : ReadFault} (hc : s.dev.channel = some op) :
    exec (.readFailure how) s =
      .next { s with
        dev := if failsNow s.dev.now op.issued how then s.dev.event (Device.failRead op) else s.dev } := by
  simp only [exec, execReadFailure, State.run, hc]

/-- A read in flight fails with an error at any time, and by its limit when 4 ms have passed (R145). -/
theorem failsNow_iff {how : ReadFault} {now issued : Time} :
    failsNow now issued how = true ↔ how = .error ∨ timeReached now (issued + 400) = true := by
  cases how with
  | error => exact iff_of_true rfl (.inl rfl)
  | timeout => exact ⟨.inr, fun h => h.resolve_left (by decide)⟩

theorem closes_readFailure {how : ReadFault} (hc : s.dev.channel = some op)
    (hfails : how = .error ∨ timeReached s.dev.now (op.issued + 400) = true) (hx : s.dev.failRead op = x) :
    Closes (.readFailure how) s x :=
  closes_event (f := Device.failRead op) (by rw [exec_readFailure hc, if_pos (failsNow_iff.mpr hfails)]) hx

theorem failRead_discarded (hd : op.discard = true) : d.failRead op = { d with channel := none } := if_pos hd

theorem failRead_followed (hd : op.discard = false) :
    d.failRead op = ({ d with channel := none } : Device).readFailed op.ring := if_neg (Bool.eq_false_iff.mp hd)

/-- A failed read of ring 0 halts the block in an operating state (R145, R183). -/
theorem readFailed_admin (ho : d.operational = true) : d.readFailed 0 = d.halt .aringflt :=
  (if_pos rfl).trans (if_pos ho)

theorem readFailed_action (hr : r ≠ 0) : d.readFailed r = d.ringFault r .fetchflt := if_neg hr

/-- Settles O47: the arrival and the failure by the discard mark, the ring and the time. -/
theorem readEnds : Obligations.ReadEnds := by
  intro s op x hc hx
  subst hx
  refine ⟨fun records hn => ⟨fun hd => ?_, fun hd ha => ?_, fun hd ha => ?_⟩,
    fun how hfails => ⟨fun hd => ?_, fun hd hr ho => ?_, fun hd hr => ?_⟩, fun hearly => ?_⟩
  · exact closes_readArrival hc hn (arrive_discarded hd)
  · exact closes_readArrival hc hn (arrive_regress hd ha)
  · exact closes_readArrival hc hn (arrive_joins hd ha)
  · exact closes_readFailure hc hfails (failRead_discarded hd)
  · refine closes_readFailure hc hfails ((failRead_followed hd).trans ?_)
    rw [hr]
    exact readFailed_admin ho
  · exact closes_readFailure hc hfails ((failRead_followed hd).trans (readFailed_action hr))
  · have hnot : failsNow s.dev.now op.issued .timeout = false := hearly
    rw [exec_readFailure hc, hnot, if_neg Bool.false_ne_true]

/-! ## The arbiter -/

theorem requests_iff :
    d.requests r = true ↔
      (if r = 0 then d.dstate = .configure ∨ d.dstate = .run ∨ d.dstate = .draining else d.dstate = .run) ∧
        d.rings[r].state = .active ∧ d.rings[r].buf.length < 8 ∧
        d.rings[r].buf.length < indexSub d.rings[r].producer d.rings[r].tail d.rings[r].size := by
  have hstate : d.fetchState r = true ↔
      if r = 0 then d.dstate = .configure ∨ d.dstate = .run ∨ d.dstate = .draining else d.dstate = .run := by
    unfold Device.fetchState
    split
    · exact operational_iff
    · exact beq_iff_eq
  simp only [Device.requests, Bool.and_eq_true, beq_iff_eq, decide_eq_true_eq, hstate]
  exact ⟨fun ⟨⟨⟨hs, ha⟩, hahead⟩, hroom⟩ => ⟨hs, ha, hroom, hahead⟩,
    fun ⟨hs, ha, hroom, hahead⟩ => ⟨⟨⟨hs, ha⟩, hahead⟩, hroom⟩⟩

/-- The place of ring `r` in the turns after the last granted ring: 0 for the ring after it (R142). -/
def turnPlace (last r : RingId) : Nat := (r.val + 7 - last.val) % 4

/-- The turns after an action ring name the four action rings by their places (R142). -/
theorem turnOrder_spec {last : RingId} (h : 1 ≤ last.val) :
    (turnOrder last).Pairwise (fun p q => turnPlace last p < turnPlace last q) ∧
      ∀ r : RingId, r ∈ turnOrder last ↔ r ≠ 0 := by
  revert last
  decide

theorem arbiter_admin (h : d.requests 0 = true) : d.arbiter = some 0 := List.find?_cons_of_pos h

/-- With ring 0 silent, the requesting ring of the first place is granted (R142). -/
theorem arbiter_action (h0 : d.requests 0 = false) (hlast : 1 ≤ d.lastGrant.val) (hr : r ≠ 0)
    (hreq : d.requests r = true)
    (hfirst : ∀ q : RingId, q ≠ 0 → d.requests q = true → turnPlace d.lastGrant r ≤ turnPlace d.lastGrant q) :
    d.arbiter = some r := by
  obtain ⟨hordered, hmem⟩ := turnOrder_spec hlast
  refine (List.find?_cons_of_neg (ne_true_of_eq_false h0)).trans
    (find?_eq_some_of_first hordered ((hmem r).mpr hr) hreq fun q hq hbefore => ?_)
  exact Bool.eq_false_iff.mpr fun hq' => absurd (hfirst q ((hmem q).mp hq) hq') (not_le.mpr hbefore)

/-- The ring the arbiter names requests the channel. -/
theorem requests_of_arbiter (h : d.arbiter = some r) : d.requests r = true := List.find?_some h

/-! ## The grant -/

theorem grant_issued (hc : d.channel = none) (ha : d.arbiter = some r) (hb : d.busReady = true) :
    d.grant = { d with channel := some (d.readFor r), lastGrant := if r = 0 then d.lastGrant else r } := by
  rw [Device.grant, hc, ha]
  exact if_pos hb

theorem grant_fails (hc : d.channel = none) (ha : d.arbiter = some r) (hb : d.busReady = false) :
    d.grant = ({ d with lastGrant := if r = 0 then d.lastGrant else r } : Device).readFailed r := by
  rw [Device.grant, hc, ha]
  exact if_neg (ne_true_of_eq_false hb)

theorem grant_none (h : d.channel ≠ none ∨ d.arbiter = none) : d.grant = d := by
  unfold Device.grant
  split
  · rfl
  next hc => rw [h.resolve_left (not_not.mpr hc)]

/-- Settles O52: the requests, the arbiter's two cases, the read formed, and the grant by the state of the bus. -/
theorem readGrants : Obligations.ReadGrants := by
  refine ⟨fun _ _ => requests_iff, fun _ => arbiter_admin, fun _ _ => arbiter_action, fun d r first n hfirst hn => ?_,
    fun d r hc ha => ⟨grant_issued hc ha, fun hb hr => ?_, fun hb hr => ?_⟩, fun _ => ⟨grant_none, rfl⟩⟩
  · subst hfirst hn
    rfl
  · subst hr
    have ho : d.operational = true := operational_iff.mpr (requests_iff.mp (requests_of_arbiter ha)).1
    exact (grant_fails hc ha hb).trans (readFailed_admin ho)
  · rw [grant_fails hc ha hb, if_neg hr, readFailed_action hr]

end Sys2Proof.Machine
end

section
/-! What may still fail while the bus is not ready, and why six rounds of attempts leave nothing due (R142, R145, R159,
R162, log 7). -/

namespace Sys2Proof.Machine

variable {d d' d'' : Device} {r : RingId} {n : CRingId}

/-! ## What may fail -/

/-- What a write or a read that cannot be issued may bring down: C1, written `none`; an action ring that requests the
channel; and, in ring 0's place, the block itself. -/
def Device.mayFail (d : Device) : Option RingId → Bool
  | none => d.c1.state == .active
  | some r => if r = 0 then d.operational else d.requests r

/-- Nothing more may fail in `d'` than in `d`, under the same link and CONTROL. -/
structure Wanes (d d' : Device) : Prop where
  link : d'.link = d.link
  control : d'.control = d.control
  fails : ∀ x, d'.mayFail x = true → d.mayFail x = true

theorem Wanes.refl (d : Device) : Wanes d d := ⟨rfl, rfl, fun _ h => h⟩

theorem Wanes.trans (h : Wanes d d') (h' : Wanes d' d'') : Wanes d d'' :=
  ⟨h'.link.trans h.link, h'.control.trans h.control, fun x hx => h.fails x (h'.fails x hx)⟩

/-- What can no longer fail stays so. -/
theorem Wanes.spent {x : Option RingId} (h : Wanes d d') (hx : d.mayFail x = false) : d'.mayFail x = false :=
  Bool.eq_false_iff.mpr fun hx' => ne_true_of_eq_false hx (h.fails x hx')

theorem Wanes.busReady (h : Wanes d d') : d'.busReady = d.busReady := by rw [Device.busReady, h.link]; rfl

theorem Wanes.foldl {α : Type} {f : Device → α → Device} (h : ∀ d x, Wanes d (f d x)) (l : List α) (d : Device) :
    Wanes d (l.foldl f d) := by
  induction l generalizing d with
  | nil => exact .refl d
  | cons x l ih => exact (h d x).trans (ih _)

/-- What may fail is read off the device state, the rings and C1's state. -/
theorem Wanes.of_fields (hlink : d'.link = d.link) (hcontrol : d'.control = d.control) (hstate : d'.dstate = d.dstate)
    (hrings : d'.rings = d.rings) (hc1 : d'.c1.state = d.c1.state) : Wanes d d' := by
  refine ⟨hlink, hcontrol, fun x hx => ?_⟩
  cases x with
  | none => rwa [Device.mayFail, hc1] at hx
  | some r =>
    simpa only [Device.mayFail, Device.operational, Device.requests, Device.fetchState, hstate, hrings] using hx

theorem answer_wanes (d : Device) (a : Slot) (st : Status) (x : Word) : Wanes d (d.answer a st x) :=
  .of_fields (d.answer_link a st x) (d.answer_control a st x) (d.answer_dstate a st x) (d.answer_rings a st x)
    (answer_cring_state d a st x .c1)

theorem raiseAlert_wanes (d : Device) (x : Word) : Wanes d (d.raiseAlert x) := .of_fields rfl rfl rfl rfl rfl

theorem cancelRing_wanes (d : Device) (r : RingId) (st : Status) : Wanes d (d.cancelRing r st) := by
  rw [cancelRing_eq]
  refine Wanes.trans ?_ (Wanes.foldl (fun d a => answer_wanes d a st 0) (d.liveSlots r) _)
  rw [detachAll_eq]
  exact .of_fields rfl rfl rfl rfl rfl

/-! ## Rings -/

theorem mayFail_ring (hr : r ≠ 0) : d.mayFail (some r) = d.requests r := if_neg hr

/-- A ring that is not ACTIVE, or has no record ahead of its tail, makes no request (R141). -/
theorem requests_of_silent (h : d.rings[r].state ≠ .active ∨ d.rings[r].available = 0) : d.requests r = false := by
  refine Bool.eq_false_iff.mpr fun hreq => ?_
  obtain ⟨-, hactive, -, hahead⟩ := requests_iff.mp hreq
  obtain h | h := h
  · exact h hactive
  · exact Nat.not_lt_zero _ (hahead.trans_eq h)

/-- A ring made silent, the others as they were. -/
theorem Wanes.of_silent (hlink : d'.link = d.link) (hcontrol : d'.control = d.control) (hstate : d'.dstate = d.dstate)
    (hc1 : d'.c1.state = d.c1.state) (hothers : ∀ q : RingId, q ≠ r → d'.rings[q] = d.rings[q])
    (hsilent : d'.requests r = false) : Wanes d d' := by
  refine ⟨hlink, hcontrol, fun x hx => ?_⟩
  cases x with
  | none => rwa [Device.mayFail, hc1] at hx
  | some q =>
    by_cases hq : q = 0
    · simpa only [Device.mayFail, hq, if_true, Device.operational, hstate] using hx
    · rw [mayFail_ring hq] at hx ⊢
      have hqr : q ≠ r := fun h => ne_true_of_eq_false hsilent (h ▸ hx)
      simpa only [Device.requests, Device.fetchState, Device.operational, hstate, hothers q hqr] using hx

/-- Ring `r` FAULTED with its buffer dropped: a ring fault before it cancels an entry (R146, R147). -/
def Device.ringDown (d : Device) (r : RingId) (cause : FaultCause) : Device :=
  (d.setRing r { d.rings[r] with state := .faulted, cause := cause }).dropBuffer r

theorem ringDown_ring (d : Device) (r q : RingId) (cause : FaultCause) :
    (d.ringDown r cause).rings[q] =
      if q = r then { d.rings[r] with state := .faulted, cause := cause, buf := [] } else d.rings[q] := by
  rw [Device.ringDown, dropBuffer_ring, setRing_ring]
  split <;> rfl

theorem ringDown_requests (d : Device) (r : RingId) (cause : FaultCause) : (d.ringDown r cause).requests r = false :=
  requests_of_silent (.inl (by rw [ringDown_ring, if_pos rfl]; exact RingState.noConfusion))

theorem ringDown_wanes (d : Device) (r : RingId) (cause : FaultCause) : Wanes d (d.ringDown r cause) :=
  .of_silent (r := r) rfl rfl rfl rfl (fun q hq => by rw [ringDown_ring, if_neg hq]) (ringDown_requests d r cause)

/-- A ring fault makes its ring silent, and then brings nothing up. -/
theorem ringFault_through (d : Device) (hr : r ≠ 0) (cause : FaultCause) :
    ∃ x : Device, Wanes d x ∧ x.requests r = false ∧ Wanes x (d.ringFault r cause) := by
  unfold Device.ringFault
  split
  · exact ⟨d.ringDown r cause, ringDown_wanes d r cause, ringDown_requests d r cause,
      (cancelRing_wanes _ r .cxrflt).trans (raiseAlert_wanes _ _)⟩
  next h =>
    refine ⟨d, .refl d, requests_of_silent (.inl fun ha => h ?_), .refl d⟩
    rw [ha, bne_iff_ne.mpr hr]
    rfl

theorem ringFault_wanes (d : Device) (r : RingId) (cause : FaultCause) : Wanes d (d.ringFault r cause) := by
  by_cases hr : r = 0
  · rw [Device.ringFault, if_neg (by simp [hr])]
    exact .refl d
  · obtain ⟨x, hx, -, h⟩ := ringFault_through d hr cause
    exact hx.trans h

theorem ringFault_spent (d : Device) (hr : r ≠ 0) (cause : FaultCause) :
    (d.ringFault r cause).mayFail (some r) = false := by
  obtain ⟨x, -, hx, h⟩ := ringFault_through d hr cause
  exact h.spent ((mayFail_ring hr).trans hx)

/-! ## The halt -/

theorem haltFromBus_operational (ho : d.operational = true) (reason : HReason) :
    d.haltFromBus reason = d.halt reason := if_pos ho

theorem halt_not_operational (d : Device) (reason : HReason) : (d.halt reason).operational = false := rfl

/-- Outside CONFIGURE, RUN and DRAINING no ring may fail. -/
theorem mayFail_of_not_operational (ho : d.operational = false) : d.mayFail (some r) = false := by
  rw [Device.mayFail]
  split
  · exact ho
  · have hrun : (d.dstate == .run) = false := Bool.eq_false_iff.mpr fun h =>
      ne_true_of_eq_false ho (operational_iff.mpr (.inr (.inl (beq_iff_eq.mp h))))
    simp [Device.requests, Device.fetchState, ‹¬r = 0›, hrun]

theorem halt_wanes (d : Device) (reason : HReason) : Wanes d (d.halt reason) where
  link := rfl
  control := rfl
  fails
    | none, hx => hx
    | some _, hx => absurd hx (ne_true_of_eq_false (mayFail_of_not_operational (halt_not_operational d reason)))

theorem haltFromBus_wanes (d : Device) (reason : HReason) : Wanes d (d.haltFromBus reason) := by
  unfold Device.haltFromBus
  split
  · exact halt_wanes d reason
  · exact .refl d

/-! ## The ends of admin operations and the fault of C1 -/

theorem endReset_wanes (d : Device) (a : Slot) (record : RawRecord) : Wanes d (d.endReset a record) := by
  unfold Device.endReset
  dsimp only
  split
  · generalize resetEndState _ _ = st
    have hring (st : RingState) (cause : FaultCause) :
        Wanes d (d.setRing (ringNumberOf record)
          { d.rings[ringNumberOf record] with tail := 0, producer := 0, state := st, cause := cause }) :=
      .of_silent (r := ringNumberOf record) rfl rfl rfl rfl (fun q hq => by rw [setRing_ring, if_neg hq])
        (requests_of_silent (.inr (by rw [setRing_ring, if_pos rfl]; simp [Ring.available, indexSub])))
    refine Wanes.trans ?_ (answer_wanes _ a .done 0)
    split
    · exact (hring _ _).trans (raiseAlert_wanes _ _)
    · exact hring _ _
  · exact .refl d

theorem endDrain_wanes (d : Device) (a : Slot) : Wanes d (d.endDrain a) := by
  unfold Device.endDrain
  split
  next hdrain =>
    have hstate : d.dstate = .draining := by
      simp only [Bool.and_eq_true, beq_iff_eq] at hdrain
      exact hdrain.1
    have hends : Wanes d ({ d.allOff with dstate := .configure } : Device) := by
      refine ⟨rfl, rfl, fun x hx => ?_⟩
      cases x with
      | none => exact hx
      | some r =>
        by_cases hr : r = 0
        · rw [Device.mayFail, if_pos hr]
          exact operational_iff.mpr (.inr (.inr hstate))
        · rw [mayFail_ring hr] at hx
          simp [Device.requests, Device.fetchState, hr] at hx
    exact hends.trans (answer_wanes _ a .done 0)
  · exact .refl d

theorem endOps_wanes (d : Device) : Wanes d d.endOps := by
  unfold Device.endOps
  repeat' split
  · exact .refl d
  · exact .refl d
  · exact endReset_wanes d _ _
  · exact endDrain_wanes d _
  · exact .refl d

/-- The slots of a list freed (R51, R162). -/
theorem foldl_freeSlot (l : List Slot) (d : Device) :
    l.foldl Device.freeSlot d =
      { d with slots := l.foldl (fun (v : Vector (Option Entry) 64) (a : Slot) => v.set a none) d.slots } := by
  induction l generalizing d with
  | nil => rfl
  | cons a l ih => exact ih _

/-- C1 FAULTED, its queue freed, and ALERT.C1FLT set: the fault of C1 before it reaches a ring (R162). -/
def Device.c1Down (d : Device) : Device :=
  { d with
    c1 := { d.c1 with state := .faulted, inflight := none, queue := [], ic := false, countdown := none }
    slots := d.c1.queue.foldl (fun (v : Vector (Option Entry) 64) (a : Slot) => v.set a none) d.slots
    alert := d.alert ||| 0x20 }

/-- The fault of C1 reaches the rings bound to it, then the admin operation that waits (R162). -/
theorem faultC1_eq (d : Device) :
    d.faultC1 =
      (actionRings.foldl (fun d r => if d.rings[r].bound = .c1 then d.ringFault r .cqflt else d) d.c1Down).endOps := by
  rw [Device.faultC1, foldl_freeSlot]
  rfl

theorem c1Down_wanes_faultC1 (d : Device) : Wanes d.c1Down d.faultC1 := by
  rw [faultC1_eq]
  refine (Wanes.foldl (fun d r => ?_) _ _).trans (endOps_wanes _)
  split
  · exact ringFault_wanes d r .cqflt
  · exact .refl d

theorem faultC1_wanes (d : Device) : Wanes d d.faultC1 := by
  have hdown : Wanes d d.c1Down := by
    refine ⟨rfl, rfl, fun x hx => ?_⟩
    cases x with
    | none => cases hx
    | some r => exact hx
  exact hdown.trans (c1Down_wanes_faultC1 d)

theorem faultC1_spent (d : Device) : d.faultC1.mayFail none = false := (c1Down_wanes_faultC1 d).spent rfl

/-! ## The attempts of an event -/

theorem issue_wanes (d : Device) (n : CRingId) : Wanes d (d.issue n) := by
  unfold Device.issue
  repeat' split
  · exact .refl d
  · cases n <;> exact .of_fields rfl rfl rfl rfl rfl
  · cases n
    · exact haltFromBus_wanes d _
    · exact faultC1_wanes d
  · exact .refl d

theorem readFailed_wanes (d : Device) (r : RingId) : Wanes d (d.readFailed r) := by
  unfold Device.readFailed
  split
  · exact haltFromBus_wanes d _
  · exact ringFault_wanes d r _

theorem grant_wanes (d : Device) : Wanes d d.grant := by
  unfold Device.grant
  split
  · exact .refl d
  · split
    · exact .refl d
    next r _ =>
      generalize (if r = 0 then d.lastGrant else r) = last
      split
      · exact .of_fields rfl rfl rfl rfl rfl
      · exact Wanes.trans (d' := { d with lastGrant := last }) (.of_fields rfl rfl rfl rfl rfl) (readFailed_wanes _ r)

theorem service_wanes (d : Device) : Wanes d d.service :=
  ((issue_wanes d .c1).trans (issue_wanes _ .c0)).trans (grant_wanes _)

theorem serviceRounds_wanes (k : Nat) (d : Device) : Wanes d (Device.serviceRounds k d) := by
  induction k generalizing d with
  | zero => exact .refl d
  | succ k ih => exact (service_wanes d).trans (ih _)

/-- What an event issues brings nothing up, whatever the bus. -/
theorem served_wanes (d : Device) : Wanes d d.served := by
  rw [← settle_eq_served, Device.settle]
  split
  · exact service_wanes d
  · exact serviceRounds_wanes 6 d

/-! ## What is due -/

/-- A completion ring's write is due: it may be issued and an answered entry heads its queue (R159). -/
def Device.WriteDue (d : Device) (n : CRingId) : Prop := d.mayIssue n = true ∧ d.queueHead n ≠ none

theorem not_writeDue_iff : ¬d.WriteDue n ↔ d.mayIssue n = false ∨ d.queueHead n = none := by
  rw [Device.WriteDue, not_and_or, Bool.not_eq_true, not_not]

theorem mayIssue_iff :
    d.mayIssue n = true ↔
      (d.cring n).state = .active ∧ (d.dstate = .configure ∨ d.dstate = .run ∨ d.dstate = .draining) ∧
        (d.cring n).inflight = none ∧
        indexSub (d.cring n).producer (d.cring n).consumer (d.cring n).size < (d.cring n).size - 1 := by
  have hroom : (d.cring n).hasRoom = true ↔
      indexSub (d.cring n).producer (d.cring n).consumer (d.cring n).size < (d.cring n).size - 1 := decide_eq_true_iff
  simp only [Device.mayIssue, Bool.and_eq_true, beq_iff_eq, operational_iff, Option.isNone_iff_eq_none, hroom,
    and_assoc]

theorem Device.WriteDue.operational (h : d.WriteDue n) : d.operational = true :=
  operational_iff.mpr (mayIssue_iff.mp h.1).2.1

theorem Device.WriteDue.mayFail_c1 (h : d.WriteDue .c1) : d.mayFail none = true :=
  beq_iff_eq.mpr (mayIssue_iff.mp h.1).1

theorem queueHead_eq_some_iff {e : Entry} {x : Answer} :
    d.queueHead n = some (e, x) ↔
      ∃ (a : Slot) (q : List Slot), (d.cring n).queue = a :: q ∧ d.slots[a] = some e ∧ e.st = .answered x := by
  constructor
  · intro h
    unfold Device.queueHead at h
    split at h
    · cases h
    next a q hq =>
      split at h
      next e' he =>
        split at h
        next ans hst =>
          cases h
          exact ⟨a, q, hq, he, hst⟩
        · cases h
      · cases h
  · rintro ⟨a, q, hq, he, hst⟩
    unfold Device.queueHead
    rw [hq]
    dsimp only
    rw [he]
    dsimp only
    rw [hst]

theorem issue_of_not_due (h : ¬d.WriteDue n) : d.issue n = d := by
  unfold Device.issue
  split
  · rfl
  next hhead =>
    obtain hm | hnone := not_writeDue_iff.mp h
    · rw [hm, if_neg Bool.false_ne_true]
    · rw [hnone] at hhead
      cases hhead

/-- A write that is due and cannot be issued halts the block for C0 and faults C1 (R162). -/
theorem issue_fails (h : d.WriteDue n) (hb : d.busReady = false) :
    d.issue n = if n = .c0 then d.halt .c0flt else d.faultC1 := by
  obtain ⟨⟨e, x⟩, hhead⟩ := Option.ne_none_iff_exists'.mp h.2
  have hfails : d.issue n = d.failCompletion n := by
    rw [Device.issue, hhead]
    simp only [h.1, hb, if_true, Bool.false_eq_true, if_false]
  rw [hfails]
  cases n with
  | c0 => exact (haltFromBus_operational h.operational .c0flt).trans (if_pos rfl).symm
  | c1 => exact (if_neg CRingId.noConfusion).symm

/-- Nothing due is no write due, and no read to grant. -/
theorem nothingDue_iff :
    d.NothingDue ↔ ¬d.WriteDue .c1 ∧ ¬d.WriteDue .c0 ∧ (d.channel ≠ none ∨ d.arbiter = none) := by
  have hwrite (n : CRingId) : (d.mayIssue n = true → d.queueHead n = none) ↔ ¬d.WriteDue n := by
    rw [Device.WriteDue, not_and, not_not]
  have hread : (d.channel = none → d.arbiter = none) ↔ (d.channel ≠ none ∨ d.arbiter = none) := imp_iff_not_or
  unfold Device.NothingDue
  rw [hread]
  exact ⟨fun ⟨hw, hr⟩ => ⟨(hwrite .c1).mp (hw .c1), (hwrite .c0).mp (hw .c0), hr⟩, fun ⟨h1, h0, hr⟩ =>
    ⟨fun | .c0 => (hwrite .c0).mpr h0 | .c1 => (hwrite .c1).mpr h1, hr⟩⟩

theorem nothingDue_of_not_operational (ho : d.operational = false) : d.NothingDue := by
  have hwrite (n : CRingId) : ¬d.WriteDue n := fun h => ne_true_of_eq_false ho h.operational
  exact nothingDue_iff.mpr ⟨hwrite .c1, hwrite .c0, .inr (arbiter_of_not_operational d ho)⟩

/-! ## The rounds -/

theorem service_of_nothingDue (h : d.NothingDue) : d.service = d := by
  obtain ⟨h1, h0, hread⟩ := nothingDue_iff.mp h
  rw [Device.service, issue_of_not_due h1, issue_of_not_due h0, grant_none hread]

theorem serviceRounds_of_nothingDue (k : Nat) (h : d.NothingDue) : Device.serviceRounds k d = d := by
  induction k with
  | zero => rfl
  | succ k ih => rw [Device.serviceRounds, service_of_nothingDue h, ih]

/-- A read that is granted and cannot be issued brings down what was asked for (R145). -/
theorem grant_spends (hc : d.channel = none) (ha : d.arbiter = some r) (hb : d.busReady = false) :
    d.mayFail (some r) = true ∧ d.grant.mayFail (some r) = false := by
  have hreq := requests_of_arbiter ha
  rw [grant_fails hc ha hb]
  generalize (if r = 0 then d.lastGrant else r) = last
  by_cases hr : r = 0
  · subst hr
    have ho : d.operational = true := operational_iff.mpr (requests_iff.mp hreq).1
    refine ⟨ho, ?_⟩
    rw [readFailed_admin (d := { d with lastGrant := last }) ho]
    rfl
  · exact ⟨(mayFail_ring hr).trans hreq, by rw [readFailed_action hr]; exact ringFault_spent _ hr _⟩

/-- A round with something due brings something down. -/
theorem service_spends (hb : d.busReady = false) (h : ¬d.NothingDue) :
    ∃ x, d.mayFail x = true ∧ d.service.mayFail x = false := by
  unfold Device.service
  by_cases h1 : d.WriteDue .c1
  · refine ⟨none, h1.mayFail_c1, ?_⟩
    rw [issue_fails h1 hb, if_neg CRingId.noConfusion]
    exact ((issue_wanes _ .c0).trans (grant_wanes _)).spent (faultC1_spent d)
  · rw [issue_of_not_due h1]
    by_cases h0 : d.WriteDue .c0
    · refine ⟨some 0, h0.operational, ?_⟩
      rw [issue_fails h0 hb, if_pos rfl]
      exact (grant_wanes _).spent rfl
    · rw [issue_of_not_due h0]
      have hread : ¬(d.channel ≠ none ∨ d.arbiter = none) := fun hread => h (nothingDue_iff.mpr ⟨h1, h0, hread⟩)
      obtain ⟨hc, ha⟩ := not_or.mp hread
      obtain ⟨r, hr⟩ := Option.ne_none_iff_exists'.mp ha
      exact ⟨some r, grant_spends (not_not.mp hc) hr hb⟩

/-- All that may fail. -/
def Device.failures (d : Device) : Finset (Option RingId) := Finset.univ.filter (fun x => d.mayFail x = true)

theorem mem_failures {x : Option RingId} : x ∈ d.failures ↔ d.mayFail x = true :=
  Finset.mem_filter.trans (and_iff_right (Finset.mem_univ x))

theorem service_fewer_failures (hb : d.busReady = false) (h : ¬d.NothingDue) :
    d.service.failures.card < d.failures.card := by
  obtain ⟨x, hx, hx'⟩ := service_spends hb h
  have hsubset : d.service.failures ⊆ d.failures := fun y hy =>
    mem_failures.mpr ((service_wanes d).fails y (mem_failures.mp hy))
  exact Finset.card_lt_card ((Finset.ssubset_iff_of_subset hsubset).mpr
    ⟨x, mem_failures.mpr hx, fun hmem => ne_true_of_eq_false hx' (mem_failures.mp hmem)⟩)

/-- As many rounds as things may fail leave nothing due. -/
theorem serviceRounds_nothingDue {k : Nat} (hb : d.busReady = false) (hk : d.failures.card ≤ k) :
    (Device.serviceRounds k d).NothingDue := by
  induction k generalizing d with
  | zero =>
    refine nothingDue_of_not_operational (Bool.eq_false_iff.mpr fun ho => ?_)
    have hmem : some 0 ∈ d.failures := mem_failures.mpr ho
    rw [Finset.card_eq_zero.mp (Nat.le_zero.mp hk)] at hmem
    exact absurd hmem (Finset.notMem_empty _)
  | succ k ih =>
    by_cases h : d.NothingDue
    · rwa [serviceRounds_of_nothingDue _ h]
    · exact ih ((service_wanes d).busReady.trans hb) (Nat.le_of_lt_succ ((service_fewer_failures hb h).trans_le hk))

theorem served_not_ready (hb : d.busReady = false) : d.served = Device.serviceRounds 6 d :=
  if_neg (ne_true_of_eq_false hb)

/-- C1, four action rings and the block may fail: six rounds are enough (log 7). -/
theorem served_nothingDue (hb : d.busReady = false) : d.served.NothingDue := by
  rw [served_not_ready hb]
  exact serviceRounds_nothingDue hb (Finset.card_le_univ _)

theorem serviceRounds_eq_iterate (k : Nat) (d : Device) :
    Device.serviceRounds k d = (fun x : Device => ((x.issue .c1).issue .c0).grant)^[k] d := by
  induction k generalizing d with
  | zero => rfl
  | succ k ih => exact ih _

/-- A write of C0 that is due and cannot be issued, with none of C1's before it, ends the event in the halt (R162,
R183). -/
theorem served_eq_halt (hb : d.busReady = false) (h1 : ¬d.WriteDue .c1) (h0 : d.WriteDue .c0) :
    d.served = (d.halt .c0flt).served := by
  have hhalted := halt_not_operational d .c0flt
  have hround : d.service = d.halt .c0flt := by
    rw [Device.service, issue_of_not_due h1, issue_fails h0 hb, if_pos rfl]
    exact grant_none (.inr (arbiter_of_not_operational _ hhalted))
  rw [served_not_ready hb, served_of_not_operational _ hhalted, Device.serviceRounds, hround,
    serviceRounds_of_nothingDue _ (nothingDue_of_not_operational hhalted)]

/-- The close reads of an event's effect what it serves alone. -/
theorem closedFrom_congr {before : Device} (h : d.served = d'.served) : before.closedFrom d = before.closedFrom d' := by
  rw [Device.closedFrom, h]
  rfl

end Sys2Proof.Machine
end

section
/-! Completion writes: the record formed, when a write is due, and how one that cannot be issued ends its event (R159,
R160, R162; O53). -/

namespace Sys2Proof.Machine

variable {d : Device} {n : CRingId}

/-! ## The record (12.3) -/

section
variable (e : Entry) (x : Answer) (tail : Nat) (phase : Bool)

theorem completionRecord_tag : halfAt (completionRecord e x tail phase) 0 = halfAt e.record 2 :=
  BitVec.extractLsb'_append_eq_right

theorem completionRecord_ring : (completionRecord e x tail phase).extractLsb' 16 3 = BitVec.ofNat 3 e.ring.val := by
  unfold completionRecord
  rw [BitVec.extractLsb'_append_eq_of_le (by decide)]
  exact BitVec.extractLsb'_append_eq_right

theorem completionRecord_reserved : (completionRecord e x tail phase).extractLsb' 19 4 = 0 := by
  unfold completionRecord
  iterate 2 rw [BitVec.extractLsb'_append_eq_of_le (by decide)]
  exact BitVec.extractLsb'_append_eq_right

theorem completionRecord_phase : (completionRecord e x tail phase).getLsbD 23 = phase := by
  have hbit : (completionRecord e x tail phase).extractLsb' 23 1 = BitVec.ofBool phase := by
    unfold completionRecord
    iterate 3 rw [BitVec.extractLsb'_append_eq_of_le (by decide)]
    exact BitVec.extractLsb'_append_eq_right
  have hfirst := congrArg (fun b => b.getLsbD 0) hbit
  simpa using hfirst

theorem completionRecord_status : byteAt (completionRecord e x tail phase) 3 = statusCode x.status := by
  unfold byteAt completionRecord
  iterate 4 rw [BitVec.extractLsb'_append_eq_of_le (by decide)]
  exact BitVec.extractLsb'_append_eq_right

theorem completionRecord_pos : halfAt (completionRecord e x tail phase) 4 = BitVec.ofNat 16 e.pos := by
  unfold halfAt completionRecord
  iterate 5 rw [BitVec.extractLsb'_append_eq_of_le (by decide)]
  exact BitVec.extractLsb'_append_eq_right

theorem completionRecord_tail : halfAt (completionRecord e x tail phase) 6 = BitVec.ofNat 16 tail := by
  unfold halfAt completionRecord
  iterate 6 rw [BitVec.extractLsb'_append_eq_of_le (by decide)]
  exact BitVec.extractLsb'_append_eq_right

theorem completionRecord_time : wordAt (completionRecord e x tail phase) 8 = x.time := by
  unfold wordAt completionRecord
  iterate 7 rw [BitVec.extractLsb'_append_eq_of_le (by decide)]
  exact BitVec.extractLsb'_append_eq_right

theorem completionRecord_detail : wordAt (completionRecord e x tail phase) 12 = x.detail := by
  unfold wordAt completionRecord
  iterate 8 rw [BitVec.extractLsb'_append_eq_of_le (by decide)]
  exact BitVec.extractLsb'_eq_self

end

/-! ## The write issued -/

theorem nextWrite_of_inflight (h : (d.cring n).inflight ≠ none) : d.nextWrite n = (d.cring n).inflight := by
  obtain ⟨w, hw⟩ := Option.ne_none_iff_exists'.mp h
  rw [Device.nextWrite, hw]

theorem nextWrite_of_idle (h : (d.cring n).inflight = none) :
    d.nextWrite n = if d.mayIssue n then (d.queueHead n).map (fun x => d.formWrite n x.1 x.2) else none := by
  rw [Device.nextWrite, h]

theorem nextWrite_of_not_due (hi : (d.cring n).inflight = none) (h : ¬d.WriteDue n) : d.nextWrite n = none := by
  rw [nextWrite_of_idle hi]
  obtain hm | hnone := not_writeDue_iff.mp h
  · exact if_neg (ne_true_of_eq_false hm)
  · rw [hnone, Option.map_none, ite_self]

/-- A write that is due is the one R160 forms. -/
theorem nextWrite_of_due {e : Entry} {x : Answer} (hm : d.mayIssue n = true) (hq : d.queueHead n = some (e, x)) :
    d.nextWrite n = some (d.formWrite n e x) := by
  obtain ⟨-, -, hi, -⟩ := mayIssue_iff.mp hm
  rw [nextWrite_of_idle hi, if_pos hm, hq]
  rfl

/-- Settles O53: the record field by field, the conditions of a write, its issue by the state of the bus, and the
rounds of a bus that is not ready. -/
theorem completionWritesFormed : Obligations.CompletionWritesFormed := by
  refine ⟨fun d n e x w hw => ?_, ⟨rfl, rfl⟩, fun _ _ => mayIssue_iff, fun _ _ _ _ => queueHead_eq_some_iff,
    fun d n => ⟨nextWrite_of_inflight, fun hi h => nextWrite_of_not_due hi (not_writeDue_iff.mpr h),
      fun h => issue_of_not_due (not_writeDue_iff.mpr h), fun e x hm hq => ⟨nextWrite_of_due hm hq, fun hb => ?_, ?_⟩⟩,
    fun d hb => ⟨?_, served_nothingDue hb, fun h => ?_⟩, fun d f hb h1 hm0 hq0 => ?_⟩
  · subst hw
    refine ⟨completionRecord_tag .., ?_, completionRecord_reserved .., completionRecord_phase ..,
      completionRecord_status .., completionRecord_pos .., completionRecord_tail .., completionRecord_time ..,
      completionRecord_detail .., rfl⟩
    rw [Device.formWrite, completionRecord_ring, BitVec.toNat_ofNat]
    exact Nat.mod_eq_of_lt (e.ring.isLt.trans (by decide))
  · rw [issue_eq_of_busReady d n hb, nextWrite_of_due hm hq]
  · exact issue_fails ⟨hm, by rw [hq]; exact Option.some_ne_none _⟩
  · rw [served_not_ready hb, serviceRounds_eq_iterate]
  · rw [served_not_ready hb, serviceRounds_of_nothingDue 6 h]
  · rw [event_eq_closedFrom]
    exact closedFrom_congr (served_eq_halt hb (not_writeDue_iff.mpr (.inl h1)) ⟨hm0, hq0⟩)

end Sys2Proof.Machine
end

section
/-! The end of a completion write, accepted or failed, and the coalescing delay (R161, R162, R166, R167, R183; O45,
O46). -/

namespace Sys2Proof.Machine

variable {s : State} {d : Device} {n : CRingId}

/-! ## Coalescing -/

/-- A delay that is due expires: the cause is set and the countdown stops (R167). -/
theorem closes_coalescingDelayExpiry {due : Time} (hc : (s.dev.cring n).countdown = some due)
    (hdue : timeReached s.dev.now due = true) :
    Closes (.coalescingDelayExpiry n) s (s.dev.setCRing n { s.dev.cring n with ic := true, countdown := none }) := by
  have hreached : dueReached s.dev.now (s.dev.cring n).countdown = true := by rw [hc]; exact hdue
  refine closes_event (f := Device.delayExpires n) ?_ rfl
  simp only [exec, execCoalescingDelayExpiry, State.run, hreached, if_true]

/-- Coalescing in one update: the cause, and the countdown where the cause was clear (R166). -/
theorem coalesce_eq (c : CRing) (now : Time) :
    c.coalesce now =
      { c with
        ic := c.ic || decide (c.thresh ≤ c.unconsumed)
        countdown :=
          if c.ic = true then c.countdown
          else if c.thresh ≤ c.unconsumed then none
          else if c.delay = 0 then c.countdown
          else some (c.countdown.getD (now + BitVec.ofNat 32 (c.delay * 10))) } := by
  unfold CRing.coalesce
  generalize c.unconsumed = count
  obtain ⟨state, base, size, producer, consumer, phase, thresh, delay, countdown, ic, queue, inflight⟩ := c
  cases ic with
  | true => simp
  | false =>
    by_cases hthresh : thresh ≤ count
    · simp [hthresh]
    · obtain rfl | hdelay := Nat.eq_zero_or_pos delay
      · simp [hthresh]
      · cases countdown <;> simp [hthresh, hdelay, hdelay.ne', ticksPer100us]

/-! ## The end of a write -/

theorem closes_completionWriteAccepted {x : Device} (hi : (s.dev.cring n).inflight ≠ none)
    (hx : s.dev.writeAccepted n = x) : Closes (.completionWriteAccepted n) s x := by
  refine closes_event (f := Device.writeAccepted n) ?_ hx
  simp only [exec, execCompletionWriteAccepted, State.run, Option.isSome_iff_ne_none.mpr hi, if_true]

theorem closes_completionWriteFailed {x : Device} (hi : (s.dev.cring n).inflight ≠ none)
    (hx : s.dev.failCompletion n = x) : Closes (.completionWriteFailed n) s x := by
  refine closes_event (f := fun d => d.failCompletion n) ?_ hx
  simp only [exec, execCompletionWriteFailed, State.run, Option.isSome_iff_ne_none.mpr hi, if_true]

theorem freeHead_cons {a : Slot} {q : List Slot} (hq : (d.cring n).queue = a :: q) : d.freeHead n = d.freeSlot a := by
  rw [Device.freeHead, hq]

/-- Settles O45: the expiry in one update, and the acceptance by what coalescing makes of the ring. -/
theorem completionAcceptedCoalesces : Obligations.CompletionAcceptedCoalesces := by
  intro s n c hc
  subst hc
  refine ⟨fun due => closes_coalescingDelayExpiry, fun a q next count hi hq hnext hcount =>
    closes_completionWriteAccepted hi ?_⟩
  subst hnext hcount
  rw [Device.writeAccepted, freeHead_cons hq, CRing.accepted, coalesce_eq, hq]
  rfl

/-- C1 that is down has no write due. -/
theorem faultC1_not_writeDue (d : Device) : ¬d.faultC1.WriteDue .c1 := fun h =>
  ne_true_of_eq_false (faultC1_spent d) h.mayFail_c1

/-- Settles O46: the halt of C0's failure, the fault of C1 ring by ring, and the halt that follows it where C0 has a
write due that cannot be issued. -/
theorem completionWriteFails : Obligations.CompletionWriteFails := by
  refine ⟨fun s hi ho => closes_completionWriteFailed hi (haltFromBus_operational ho .c0flt), fun d x f hx hf => ?_,
    fun s hi => ?_⟩
  · have hdown : x = d.c1Down := hx
    rw [hdown, faultC1_eq]
    simp only [actionRings, List.foldl_cons, List.foldl_nil, hf]
  · have hfault : Closes (.completionWriteFailed .c1) s s.dev.faultC1 := closes_completionWriteFailed hi rfl
    refine ⟨hfault, fun hb hm hq => ?_⟩
    have hready : s.dev.faultC1.busReady = false := (faultC1_wanes s.dev).busReady.trans hb
    unfold Closes
    rw [← closedFrom_congr (served_eq_halt hready (faultC1_not_writeDue s.dev) ⟨hm, hq⟩)]
    exact hfault

end Sys2Proof.Machine
end

section
/-! CONSUMER writes: the acknowledgment of an accepted one and its further rise, or the discard (R164, R168, R169,
R195; O11). -/

namespace Sys2Proof.Machine

variable {s : State} {d : Device} {n : CRingId} {v : Word}

/-! ## The acknowledgment -/

/-- The acknowledgment in one update, from the count it leaves (R168). -/
theorem acknowledge_eq (c : CRing) (now : Time) :
    c.acknowledge now =
      { c with
        ic := decide (c.thresh ≤ c.unconsumed)
        countdown :=
          if c.unconsumed < c.thresh ∧ 0 < c.unconsumed ∧ 0 < c.delay then
            some (now + BitVec.ofNat 32 (c.delay * 10))
          else none } := by
  unfold CRing.acknowledge
  split
  next hthresh => simp [hthresh, Nat.not_lt.mpr hthresh]
  next hthresh =>
    have hbelow : c.unconsumed < c.thresh := Nat.lt_of_not_le hthresh
    split
    next hrun =>
      simp only [Bool.and_eq_true, decide_eq_true_eq] at hrun
      simp [hthresh, hbelow, hrun, ticksPer100us]
    next hrun =>
      simp only [Bool.and_eq_true, decide_eq_true_eq] at hrun
      simp [hthresh, hbelow, hrun]

/-! ## The ring a write is for -/

theorem cringNumber_eq (n : CRingId) : cringNumber (if n = .c0 then 0 else 1) = some n := by cases n <;> rfl

/-- No completion ring has a number above 1. -/
theorem cringNumber_above {k : Nat} (h : 1 < k) : cringNumber k = none := by
  unfold cringNumber
  split
  · omega
  · omega
  · rfl

theorem consumerOk_iff :
    d.consumerOk n v = true ↔
      (d.cring n).state = .active ∧ indexField v < (d.cring n).size ∧
        indexSub (indexField v) (d.cring n).consumer (d.cring n).size ≤
          indexSub (d.cring n).producer (d.cring n).consumer (d.cring n).size := by
  have hcount : decide (indexSub (indexField v) (d.cring n).consumer (d.cring n).size ≤ (d.cring n).unconsumed) = true ↔
      indexSub (indexField v) (d.cring n).consumer (d.cring n).size ≤
        indexSub (d.cring n).producer (d.cring n).consumer (d.cring n).size := decide_eq_true_iff
  simp only [Device.consumerOk, Bool.and_eq_true, beq_iff_eq, hcount, decide_eq_true_eq, and_assoc]

/-- In an operating state a value without reserved bits is checked for the ring it names (R164). -/
theorem consumerTarget_checked (ho : d.operational = true) (hv : indexReservedOk v = true)
    (hr : ringField v = if n = .c0 then 0 else 1) :
    d.consumerTarget v = if d.consumerOk n v then some n else none := by
  rw [Device.consumerTarget, if_pos (by rw [ho, hv]; rfl), hr, cringNumber_eq]

/-- Every other write is discarded (R164, R195). -/
theorem consumerTarget_unchecked (h : d.operational = false ∨ indexReservedOk v = false ∨ 1 < ringField v) :
    d.consumerTarget v = none := by
  unfold Device.consumerTarget
  split
  next hchecked =>
    obtain ⟨ho, hv⟩ := (Bool.and_eq_true _ _).mp hchecked
    obtain h | h | h := h
    · exact absurd ho (ne_true_of_eq_false h)
    · exact absurd hv (ne_true_of_eq_false h)
    · rw [cringNumber_above h]
  · rfl

/-! ## The event of a write -/

/-- A write that is not accepted closes as its discard (R164). -/
theorem closes_consumerWrite_discarded {x : Device} (h : s.dev.consumerTarget v = none) (hx : s.dev.discardIndex = x) :
    Closes (.consumerWrite v) s x := by
  refine closes_event (f := fun d => d.discardIndex) ?_ hx
  simp only [exec, execConsumerWrite, State.run, Device.writeConsumer, Device.consumerEffect, Device.rearms, h,
    Device.event]

/-- The enable of a completion ring's cause is a bit of CONTROL. -/
theorem icEnabled_congr {d' : Device} (h : d'.control = d.control) (n : CRingId) :
    d'.icEnabled n = d.icEnabled n := by
  cases n <;> simp only [Device.icEnabled, Device.ic0en, Device.ic1en, h]

theorem acceptConsumer_link (d : Device) (n : CRingId) (v : Word) : (d.acceptConsumer n v).link = d.link := by
  cases n <;> rfl

theorem acceptConsumer_control (d : Device) (n : CRingId) (v : Word) :
    (d.acceptConsumer n v).control = d.control := by
  cases n <;> rfl

/-- An accepted write closes with a message for a rise of the request, and for a cause that it cleared and left set
(R168, R169). -/
theorem writeConsumer_accepted {y : Device} (h : d.consumerTarget v = some n)
    (hy : d.closedFrom (d.acceptConsumer n v) = y) :
    d.writeConsumer v =
      { y with
        link :=
          { d.link with
            messages := d.link.messages +
              (if d.link.msi &&
                  ((!d.request && y.request) || ((d.cring n).ic && (y.cring n).ic && d.icEnabled n)) then 1
               else 0) } } := by
  subst hy
  have hwanes := served_wanes (d.acceptConsumer n v)
  have hlink := hwanes.link.trans (acceptConsumer_link d n v)
  have henabled := icEnabled_congr (hwanes.control.trans (acceptConsumer_control d n v)) n
  simp only [Device.writeConsumer, Device.consumerEffect, Device.rearms, h, settle_eq_served, signalRise_eq, hlink,
    henabled]
  cases n <;> rfl

/-- Settles O11: the accepted write with its rises, the discard in HALTED, and the discard elsewhere by what refuses
the write. -/
theorem consumerWriteAcknowledges : Obligations.ConsumerWriteAcknowledges := by
  refine fun s v n => ⟨fun left x y ho hv hr hs hi hcount hleft hx hy => ?_, fun hhalted => ?_, fun hnot hrefused => ?_⟩
  · have htarget : s.dev.consumerTarget v = some n :=
      (consumerTarget_checked ho hv hr).trans (if_pos (consumerOk_iff.mpr ⟨hs, hi, hcount⟩))
    have haccept : s.dev.acceptConsumer n v = x := by
      rw [hx, hleft, Device.acceptConsumer, acknowledge_eq]
      rfl
    exact congrArg (fun d => Host.Outcome.next { s with dev := d })
      (writeConsumer_accepted htarget (haccept ▸ hy.symm))
  · exact closes_consumerWrite_discarded (consumerTarget_unchecked (.inl (operational_of_halted hhalted)))
      (if_pos (beq_iff_eq.mpr hhalted))
  · refine closes_consumerWrite_discarded ?_ (if_neg fun h => hnot (beq_iff_eq.mp h))
    by_cases hunchecked : s.dev.operational = false ∨ indexReservedOk v = false ∨ 1 < ringField v
    · exact consumerTarget_unchecked hunchecked
    · simp only [not_or, Bool.not_eq_false] at hunchecked
      obtain ⟨ho, hv, hle⟩ := hunchecked
      obtain h | h | h | ⟨hr, hindex⟩ := hrefused
      · exact absurd ho (ne_true_of_eq_false h)
      · exact absurd hv (ne_true_of_eq_false h)
      · exact absurd h hle
      · rw [consumerTarget_checked ho hv hr, if_neg]
        intro hok
        obtain ⟨hs, hi, hcount⟩ := consumerOk_iff.mp hok
        obtain h | h | h := hindex
        · exact h hs
        · exact absurd hi (not_lt.mpr h)
        · exact absurd hcount (not_le.mpr h)

end Sys2Proof.Machine
end

section
/-! The device state changes as R173's table gives, each change in its own event (O54). -/

namespace Sys2Proof.Machine

variable {c : Instr} {s0 : DState} {old d d' : Device}

/-! ## What a small change does to the device state -/

/-- The slots of the action rings' pool are free (R44). -/
def Device.ActionSlotsFree (d : Device) : Prop := ∀ a : Slot, a.val < 60 → d.slots[a] = none

/-- What one small change within command `c`, begun in device state `s0`, does to the device state: nothing, or one
line of R173's table. Outside RUN nothing fills a slot of the action rings' pool (R53). -/
inductive StateStep (c : Instr) (s0 : DState) (d d' : Device) : Prop
  | kept (hs : d'.dstate = d.dstate) (hr : d'.hreason = d.hreason)
      (hfree : d.dstate ≠ .run → d.ActionSlotsFree → d'.ActionSlotsFree)
  | bootBegun (hs : s0 = .init) (hnew : d'.dstate = .booting) (hc : beginsBoot c = true)
  | booted (b : BootBlock) (hs : s0 = .booting) (hnew : d'.dstate = .configure) (hc : c = .bootReadArrival b)
      (hb : bootBlockOk b = true)
  | runEntered (hs : s0 = .configure) (hnew : d'.dstate = .run) (hc : c = .enterRun)
  | drainBegun (hs : s0 = .run) (hnew : d'.dstate = .draining) (hc : c = .enterConfigure)
  | drainEnded (hd : d.dstate = .draining) (hnew : d'.dstate = .configure) (hfree : d'.ActionSlotsFree)
  | halted (hnew : d'.dstate = .halted) (hc : HaltCause c s0 d d'.hreason)

theorem Device.ActionSlotsFree.setSlot {a : Slot} {v : Option Entry} (h : d.ActionSlotsFree)
    (hv : a.val < 60 → v = none) : (d.setSlot a v).ActionSlotsFree := fun b hb => by
  rw [setSlot_slot]
  split
  next hba => subst hba; exact hv hb
  · exact h b hb

/-- A record taken outside RUN is ring 0's, which fills a slot of ring 0's own pool (R44, R53). -/
theorem Device.ActionSlotsFree.takeHead {r : RingId} {head : RawRecord} {rest : List RawRecord} {a : Slot}
    (h : d.ActionSlotsFree) (ht : d.taken? r = some (head, rest, a)) (hs : d.dstate ≠ .run) :
    (d.takeHead r a head rest).ActionSlotsFree := by
  have hring : r = 0 := by
    by_contra hr
    exact hs (takeState_run d r (bne_iff_ne.mpr hr) (taken_state d r head rest a ht))
  have hpool : 60 ≤ a.val := (taken?_slot ht).1.mp hring
  exact Device.ActionSlotsFree.setSlot (d := d.setRing r _) h fun ha => absurd hpool (not_le.mpr ha)

theorem Change.stateStep (h : Change c s0 d d') : StateStep c s0 d d' := by
  cases h
  case queue n _ | cause n _ _ | writeIssued n _ _ | writeAccepted n _ | consumed n _ _ =>
    cases n <;> exact .kept rfl rfl fun _ => id
  case entryState a e st he =>
    exact .kept rfl rfl fun _ hfree => hfree.setSlot fun ha => absurd he (by rw [hfree a ha]; exact nofun)
  case slotFreed a => exact .kept rfl rfl fun _ hfree => hfree.setSlot fun _ => rfl
  case taken r head rest a ht => exact .kept rfl rfl fun hs hfree => hfree.takeHead ht hs
  case bootBegun _ hs hc => exact .bootBegun hs rfl hc
  case booted b _ hs hc hb => exact .booted b hs rfl hc hb
  case runEntered _ hs hc => exact .runEntered hs rfl hc
  case drainBegun _ hs hc _ _ _ => exact .drainBegun hs rfl hc
  case drainEnded hd he => exact .drainEnded hd rfl ((actionPoolEmpty_iff d).mp he)
  case halted reason _ _ hc => exact .halted rfl hc
  all_goals exact .kept rfl rfl fun _ => id

/-! ## The chain of a command's changes -/

/-- The block stands in CONFIGURE, RUN or DRAINING only where the command began in one of them, or is a good boot
block's arrival. -/
theorem Transition.operational_from (h : Transition c old d) (hr : resets c = false) (ho : d.operational = true) :
    old.dstate = .configure ∨ old.dstate = .run ∨ old.dstate = .draining ∨
      (old.dstate = .booting ∧ ∃ b, c = .bootReadArrival b ∧ bootBlockOk b = true) := by
  rw [operational_iff] at ho
  obtain ⟨hs, -⟩ | ⟨-, -, hreset⟩ | ⟨-, hs, -⟩ | ⟨hold, -, hb⟩ | ⟨hold, -⟩ | ⟨hold, -⟩ | ⟨hold, -⟩ | ⟨hs, -⟩ := h
  · rw [hs] at ho; tauto
  · exact absurd hreset (ne_true_of_eq_false hr)
  · simp [hs] at ho
  · exact .inr (.inr (.inr ⟨hold, hb⟩))
  · exact .inl hold
  · exact .inr (.inl hold)
  · obtain hold | ⟨hold, -⟩ := hold <;> simp [hold]
  · simp [hs] at ho

/-- What halts the block within a command is among R183's causes for the state the command began in. -/
theorem HaltCause.haltedBy {reason : HReason} (hc : HaltCause c old.dstate d reason) (h : Transition c old d)
    (hr : resets c = false) (hbus : d.busReady = old.busReady) : HaltedBy c old reason := by
  obtain ⟨hreason, hs, hb⟩ | ⟨hreason, hs, hf⟩ | ⟨hreason, hs, hb⟩ | ⟨hreason, ho, hf⟩ | ⟨hreason, ho, hf⟩ := hc
  · exact .inl ⟨hs, hb, hreason⟩
  · exact .inr (.inl ⟨hs, hreason, hf⟩)
  · exact .inr (.inr (.inl ⟨hs, hreason, hb⟩))
  · exact .inr (.inr (.inr ⟨h.operational_from hr ho, .inl ⟨hreason, hbus ▸ hf⟩⟩))
  · exact .inr (.inr (.inr ⟨h.operational_from hr ho, .inr ⟨hreason, hbus ▸ hf⟩⟩))

/-- The drain ends in the command that began it, or in one that found it running. -/
theorem Transition.draining_from (h : Transition c old d) (hr : resets c = false) (hd : d.dstate = .draining) :
    old.dstate = .draining ∨ old.dstate = .run ∧ c = .enterConfigure := by
  obtain ⟨hs, -⟩ | ⟨-, -, hreset⟩ | ⟨-, hs, -⟩ | ⟨-, hs, -⟩ | ⟨-, hs, -⟩ | ⟨hold, -, hc⟩ | ⟨-, hs, -⟩ | ⟨hs, -⟩ := h
  · exact .inl (hs.symm.trans hd)
  · exact absurd hreset (ne_true_of_eq_false hr)
  · simp [hs] at hd
  · simp [hs] at hd
  · simp [hs] at hd
  · exact .inr ⟨hold, hc⟩
  · simp [hs] at hd
  · simp [hs] at hd

/-- A change that keeps the device state keeps the line of R173's table that the command has made so far. -/
theorem Transition.of_kept (h : Transition c old d) (hs : d'.dstate = d.dstate) (hr : d'.hreason = d.hreason)
    (hfree : d.dstate ≠ .run → d.ActionSlotsFree → d'.ActionSlotsFree) : Transition c old d' := by
  have hdrain : d.dstate = .configure → d.ActionSlotsFree → d'.ActionSlotsFree := fun hd => hfree (by simp [hd])
  unfold Transition at h ⊢
  rw [hs, hr]
  refine h.imp_right (.imp_right (.imp_right (.imp_right (.imp_right (.imp_right (.imp_left ?_))))))
  exact fun ⟨hold, hd, hempty⟩ => ⟨hold, hd, hdrain hd hempty⟩

/-- One more small change of a command leaves a change of R173's table. -/
theorem Transition.of_step (h : Transition c old d) (hr : resets c = false) (hbus : d.busReady = old.busReady)
    (hstep : StateStep c old.dstate d d') : Transition c old d' := by
  cases hstep with
  | kept hs hreason hfree => exact h.of_kept hs hreason hfree
  | bootBegun hs hnew hc => exact .inr (.inr (.inl ⟨hs, hnew, hc⟩))
  | booted b hs hnew hc hb => exact .inr (.inr (.inr (.inl ⟨hs, hnew, b, hc, hb⟩)))
  | runEntered hs hnew hc => exact .inr (.inr (.inr (.inr (.inl ⟨hs, hnew, hc⟩))))
  | drainBegun hs hnew hc => exact .inr (.inr (.inr (.inr (.inr (.inl ⟨hs, hnew, hc⟩)))))
  | drainEnded hd hnew hfree =>
    exact .inr (.inr (.inr (.inr (.inr (.inr (.inl ⟨h.draining_from hr hd, hnew, hfree⟩))))))
  | halted hnew hc => exact .inr (.inr (.inr (.inr (.inr (.inr (.inr ⟨hnew, hc.haltedBy h hr hbus⟩))))))

theorem Changes.transition (h : Changes c old.dstate old d) (hr : resets c = false) : Transition c old d := by
  induction h with
  | refl => exact .inl ⟨rfl, rfl⟩
  | tail hchain hlast ih => exact ih.of_step hr (Changes.busReady hchain) hlast.stateStep

/-! ## HALTED, device time and RCAUSE -/

/-- HALTED is left by a reset alone, and its HREASON stands (R184). -/
theorem Transition.of_halted (h : Transition c old d) (hr : resets c = false) (hold : old.dstate = .halted) :
    d.dstate = .halted ∧ d.hreason = old.hreason := by
  obtain ⟨hs, hreason⟩ | ⟨-, -, hreset⟩ | ⟨hs, -⟩ | ⟨hs, -⟩ | ⟨hs, -⟩ | ⟨hs, -⟩ | ⟨hs, -⟩ | ⟨-, hs⟩ := h
  · exact ⟨hs.trans hold, hreason⟩
  · exact absurd hreset (ne_true_of_eq_false hr)
  · simp [hold] at hs
  · simp [hold] at hs
  · simp [hold] at hs
  · simp [hold] at hs
  · simp [hold] at hs
  · simp [hold, HaltedBy] at hs

/-- No small change moves device time (R62) or RCAUSE (R174). -/
theorem Change.now_rcause (h : Change c s0 d d') : d'.now = d.now ∧ d'.rcause = d.rcause := by
  cases h
  case queue n _ | cause n _ _ | writeIssued n _ _ | writeAccepted n _ | consumed n _ _ => cases n <;> exact ⟨rfl, rfl⟩
  all_goals exact ⟨rfl, rfl⟩

/-- Settles O54: a reset makes its own line of R173's table, and every other command is a chain of small changes, each
of which leaves one line made. -/
theorem deviceStateTransitions : Obligations.DeviceStateTransitions := by
  intro c s t ht
  cases hr : resets c with
  | true =>
    obtain ⟨cause, he⟩ := exec_of_resets c s hr
    rw [he, Host.Outcome.next.injEq] at ht
    subst ht
    exact ⟨.inr (.inl ⟨rfl, rfl, hr⟩), fun _ h => by simp at h, fun h => by simp at h⟩
  | false =>
    obtain ⟨d, he, hch⟩ := exec_changes c s hr
    rw [he, Host.Outcome.next.injEq] at ht
    subst ht
    have htrans := hch.transition hr
    refine ⟨htrans, fun hold _ => htrans.of_halted hr hold, fun _ => ?_⟩
    exact ⟨Changes.field_eq (f := Device.now) (fun _ _ h => h.now_rcause.1) hch,
      Changes.field_eq (f := Device.rcause) (fun _ _ h => h.now_rcause.2) hch⟩

end Sys2Proof.Machine
end

section
/-! Resets and the host's writes to CONTROL, BOOT_LO, BOOT_HI and ALERT (R174 to R177, R190; O3, O4, O5, O6, O8). -/

namespace Sys2Proof.Machine

variable {c : Instr} {s : State} {d : Device} {v : Word}

/-! ## Resets -/

/-- Every block at its reset state, field by field (R174). -/
theorem applyReset_resetFrom (d : Device) (cause : RCause) : d.ResetFrom cause (d.applyReset cause) := by
  refine ⟨⟨rfl, rfl, rfl, rfl, rfl, rfl, rfl, rfl, rfl, rfl, rfl, rfl⟩, fun a => ?_, fun p => ?_,
    fun k => ⟨?_, ?_, ?_, ?_⟩, fun i => ?_, fun z => ?_, rfl, fun r _ => ?_, ⟨?_, ?_, ?_, rfl, rfl⟩, rfl,
    ⟨rfl, rfl, rfl, rfl⟩, rfl, rfl, rfl⟩
  all_goals simp [Device.applyReset, Device.afterReset, Point.atReset, Group.atReset, Input.atReset, Zone.atReset,
    Ring.atReset, resetSize, resetQuota]

/-! ## CONTROL -/

theorem exec_controlWrite (hc : c = .controlReset v ∨ ControlWrite v c) (s : State) :
    exec c s = .next { s with dev := s.dev.writeControl v } := by
  obtain rfl | rfl | rfl | rfl | rfl | rfl := hc <;> rfl

/-- A CONTROL write with RESET 0 stores its fields as one event (R176). -/
theorem closes_controlWrite {x : Device} (hc : ControlWrite v c) (hr : v.getLsbD 1 = false)
    (hx : s.dev.storeControl v = x) : Closes c s x := by
  refine closes_event (f := Device.storeControl v) ?_ hx
  rw [exec_controlWrite (.inr hc), Device.writeControl, if_neg (ne_true_of_eq_false hr)]

theorem storeControl_boots (hs : d.dstate = .init) (he : v.getLsbD 0 = true) :
    d.storeControl v = ({ d with control := v &&& 0x1D } : Device).beginBoot :=
  if_pos (by rw [hs, he]; rfl)

theorem storeControl_stores (h : ¬(d.dstate = .init ∧ v.getLsbD 0 = true)) :
    d.storeControl v = { d with control := v &&& 0x1D } :=
  if_neg (by simpa using h)

/-- Settles O3: each reset command makes the reset of its cause. -/
theorem resetsRestoreEveryBlock : Obligations.ResetsRestoreEveryBlock := by
  refine ⟨fun s => ⟨_, rfl, rfl, applyReset_resetFrom _ _⟩, fun s => ⟨_, rfl, rfl, applyReset_resetFrom _ _⟩,
    fun s v c hr hc => ⟨_, exec_controlWrite hc s, rfl, ?_⟩⟩
  have hwrite : s.dev.writeControl v = s.dev.applyReset .control := if_pos hr
  rw [hwrite]
  exact applyReset_resetFrom _ _

/-- Settles O4: outside the beginning of a boot the write stores its fields alone. -/
theorem controlWriteStoresEnables : Obligations.ControlWriteStoresEnables := fun _ _ _ hc hr h =>
  closes_controlWrite hc hr (storeControl_stores h)

/-! ## The beginning of a boot -/

/-- A host address is a multiple of 64 (R137, R157, R177, R186). -/
theorem aligned64_iff (a : Addr) : aligned64 a = true ↔ a.toNat % 64 = 0 := by
  rw [aligned64, beq_iff_eq, BitVec.toNat_eq, BitVec.extractLsb'_toNat, Nat.shiftRight_zero]
  rfl

theorem beginBoot_issued (ha : d.bootAddress.toNat % 64 = 0) (hb : d.busReady = true) :
    d.beginBoot = { d with dstate := .booting, bootRead := some ⟨d.bootAddress, d.now⟩ } := by
  rw [Device.beginBoot, if_pos ((aligned64_iff _).mpr ha), if_pos hb]

theorem beginBoot_misaligned (ha : d.bootAddress.toNat % 64 ≠ 0) :
    d.beginBoot = ({ d with dstate := .booting } : Device).halt .bootbad := by
  rw [Device.beginBoot, if_neg fun h => ha ((aligned64_iff _).mp h)]

theorem beginBoot_unissued (ha : d.bootAddress.toNat % 64 = 0) (hb : d.busReady = false) :
    d.beginBoot = ({ d with dstate := .booting } : Device).halt .bootflt := by
  rw [Device.beginBoot, if_pos ((aligned64_iff _).mpr ha), if_neg (ne_true_of_eq_false hb)]

/-- Settles O5: the boot that the write begins, by its address and the bus. -/
theorem enableBeginsBoot : Obligations.EnableBeginsBoot := by
  intro s v c address hc hr he hs haddr
  subst haddr
  have hboot {x : Device} (hx : ({ s.dev with control := v &&& 0x1D } : Device).beginBoot = x) : Closes c s x :=
    closes_controlWrite hc hr ((storeControl_boots hs he).trans hx)
  exact ⟨fun ha hb => hboot (beginBoot_issued ha hb), fun ha => hboot (beginBoot_misaligned ha),
    fun ha hb => hboot (beginBoot_unissued ha hb)⟩

/-! ## BOOT_LO and BOOT_HI -/

/-- A boot that begins leaves the block in BOOTING or HALTED, and a read it issues is of the boot address (R177). -/
theorem beginBoot_spec (d : Device) :
    d.beginBoot.operational = false ∧ ∀ op, d.beginBoot.bootRead = some op → op.addr = d.bootAddress := by
  unfold Device.beginBoot
  split
  · split
    · exact ⟨rfl, fun op hop => by cases hop; rfl⟩
    · exact ⟨rfl, fun op hop => by cases hop⟩
  · exact ⟨rfl, fun op hop => by cases hop⟩

/-- The boot read in flight after an ENABLE in INIT is of the boot address (R175, R177). -/
theorem enable_bootRead {t : State} {op : BootRead} (hs : s.dev.dstate = .init) (hr : v.getLsbD 1 = false)
    (he : v.getLsbD 0 = true) (ht : exec (.enable v) s = .next t) (hop : t.dev.bootRead = some op) :
    op.addr = s.dev.bootAddress := by
  obtain ⟨hidle, haddr⟩ := beginBoot_spec { s.dev with control := v &&& 0x1D }
  have hclose : Closes (.enable v) s _ := closes_controlWrite (.inl rfl) hr (storeControl_boots hs he)
  rw [hclose, Host.Outcome.next.injEq] at ht
  subst ht
  refine haddr op ?_
  rwa [Device.closedFrom, served_of_not_operational _ hidle] at hop

/-- Settles O6: a reset clears the registers, a write acts in INIT alone, and a boot reads them in its event. -/
theorem bootAddressRegisters : Obligations.BootAddressRegisters := by
  refine ⟨fun c s t hc ht => ?_, fun s v hs => ?_, fun s half v hs => ?_, fun d => ⟨rfl, rfl⟩,
    fun s t v op hs hr he ht hop _ => ?_⟩
  · obtain ⟨cause, hexec⟩ := exec_of_resets c s hc
    rw [hexec, Host.Outcome.next.injEq] at ht
    subst ht
    exact ⟨rfl, rfl⟩
  · have hinit : (s.dev.dstate == .init) = true := beq_iff_eq.mpr hs
    simp only [exec, execBootAddressWrite, State.run, Device.writeBoot, hinit, if_true, and_self]
  · have hwrite : s.dev.writeBoot half v = s.dev := if_neg fun h => hs (beq_iff_eq.mp h)
    exact congrArg (fun d => Host.Outcome.next { s with dev := d }) hwrite
  · rw [enable_bootRead hs hr he ht hop]
    exact ⟨BitVec.extractLsb'_append_eq_right, BitVec.extractLsb'_append_eq_left⟩

/-! ## ALERT -/

theorem alertHalt_getLsbD (i : Nat) : alertHalt.getLsbD i = (i == 8) := by
  have halt : alertHalt = BitVec.twoPow 32 8 := by decide
  rw [halt, BitVec.getLsbD_twoPow, Bool.eq_iff_iff]
  simp only [Nat.reduceLT, decide_true, Bool.true_and, decide_eq_true_eq, beq_iff_eq]
  exact eq_comm

/-- The causes a write clears: those written as 1, but HALT in HALTED (R190). -/
theorem alertCleared_getLsbD (d : Device) (v : Word) {i : Nat} (hi : i < 32) :
    (d.alertCleared v).getLsbD i = (v.getLsbD i && !(i == 8 && d.dstate == .halted)) := by
  unfold Device.alertCleared
  split
  next h => rw [BitVec.getLsbD_and, BitVec.getLsbD_not, alertHalt_getLsbD, h, decide_eq_true hi, Bool.true_and,
      Bool.and_true]
  next h => rw [eq_false_of_ne_true h, Bool.and_false, Bool.not_false, Bool.and_true]

/-- Settles O8: the causes left, bit by bit. -/
theorem alertWriteClearsCauses : Obligations.AlertWriteClearsCauses := by
  refine fun s v => ⟨s.dev.alert &&& ~~~(s.dev.alertCleared v), ?_, fun i => ?_⟩
  · exact closes_event (f := fun d => { d with alert := d.alert &&& ~~~(d.alertCleared v) }) rfl rfl
  · by_cases hi : i < 32
    · rw [BitVec.getLsbD_and, BitVec.getLsbD_not, alertCleared_getLsbD _ _ hi]
      simp [hi]
    · rw [BitVec.getLsbD_of_ge _ _ (not_lt.mp hi), BitVec.getLsbD_of_ge s.dev.alert _ (not_lt.mp hi), Bool.false_and]

end Sys2Proof.Machine
end

section
/-! Admin records refused by the permission table or by their own checks (R179; O25, O26): every admin kind's taking at
once, and what the checks of each kind ask of the record's bytes (11.4, 12.1). -/

namespace Sys2Proof.Machine

variable {d : Device} {s : State} {k : AdminKind} {r head : RawRecord} {rest : List RawRecord} {a : Slot}

/-! ## The taking of any admin kind -/

/-- What a permitted admin record of each kind does (11.4). -/
def Device.adminExecute : AdminKind → Slot → RawRecord → Device → Device
  | .configureRing => Device.doConfigureRing
  | .configureCompletion => Device.checked configureCompletionOk Device.setC1
  | .definePoint => Device.checked definePointOk Device.applyPoint
  | .defineInput => Device.checked defineInputOk Device.applyInput
  | .defineZone => Device.checked defineZoneOk Device.applyZone
  | .defineGroup => Device.doDefineGroup
  | .setSupervision => Device.checked (adminReservedOk .setSupervision) Device.applyInterval
  | .enterRun => Device.doEnterRun
  | .enterConfigure => Device.doEnterConfigure
  | .forceGroup => Device.checked forceGroupOk Device.applyForce
  | .restoreSupervision => Device.checked (adminReservedOk .restoreSupervision) Device.applyRestore
  | .clearPointFault => Device.checked clearPointFaultOk Device.applyClearFault
  | .ringReset => Device.doRingReset
  | .snapshot => Device.doSnapshot
  | .digest => Device.doDigest

theorem exec_adminCommand (k : AdminKind) (s : State) :
    exec (adminCommand (some k)) s = .next { s with dev := s.dev.takeAdmin k (Device.adminExecute k) } := by
  cases k <;> rfl

/-- A record that fails its kind's own checks is answered BADREC, whatever the kind (R179). -/
theorem adminExecute_badrec (hok : adminOk k head = false) :
    Device.adminExecute k a head d = d.answer a .badrec 0 := by
  have hok' := ne_true_of_eq_false hok
  cases k <;> exact if_neg hok'

theorem closes_admin_refused (ht : s.dev.TakesAdmin k head rest a) (hp : s.dev.adminPermitted k = false) :
    Closes (adminCommand (some k)) s ((s.dev.takeHead 0 a head rest).answer a .astate 0) := by
  refine closes_taking (exec_adminCommand k s) ht.1 (beq_iff_eq.mpr ht.2) (if_neg ?_)
  exact ne_true_of_eq_false hp

/-- The permission table of 11.4. -/
theorem adminPermitted_iff :
    d.adminPermitted k = true ↔
      (d.dstate = .configure ∧ k ≠ .enterConfigure ∧ k ≠ .restoreSupervision) ∨
      (d.dstate = .run ∧
        (k = .enterConfigure ∨ k = .restoreSupervision ∨ k = .forceGroup ∨ k = .clearPointFault ∨ k = .ringReset ∨
          k = .snapshot ∨ k = .digest)) := by
  cases k <;> simp [Device.adminPermitted]

/-- Settles O25: the taking answered before any look at the record, and the table. -/
theorem adminRefusedByState : Obligations.AdminRefusedByState :=
  ⟨fun _ _ _ _ _ => closes_admin_refused, fun _ _ => adminPermitted_iff⟩

/-! ## KIND -/

/-- The KIND codes of the admin kinds (12.2). -/
theorem adminKindOf_iff (k : AdminKind) (r : RawRecord) :
    adminKindOf r = some k ↔ (byteAt r 0).toNat = adminKindCode k := by
  refine ⟨fun h => ?_, fun h => ?_⟩
  · unfold adminKindOf at h
    split at h <;> cases h <;> assumption
  · rw [adminKindOf, h]
    cases k <;> rfl

/-! ## Reserved bytes -/

/-- The ranges of bytes from byte 4 on that each kind's layout leaves reserved (12.1). -/
def adminReservedRanges : AdminKind → List (Nat × Nat)
  | .configureRing | .configureCompletion => [(7, 8), (10, 16), (24, 32)]
  | .definePoint => [(8, 32)]
  | .defineInput => [(7, 32)]
  | .defineZone => [(11, 32)]
  | .defineGroup => [(22, 32)]
  | .setSupervision | .forceGroup | .ringReset => [(6, 32)]
  | .enterRun => [(5, 8), (12, 32)]
  | .clearPointFault => [(5, 32)]
  | .snapshot => [(4, 8), (16, 32)]
  | .enterConfigure | .restoreSupervision | .digest => [(4, 32)]

/-- The ranges hold the bytes that the layout does not use, and no others. -/
theorem adminReservedRanges_spec (k : AdminKind) :
    (∀ i < 28, i + 4 ∉ adminLayout k → ∃ p ∈ adminReservedRanges k, p.1 ≤ i + 4 ∧ i + 4 < p.2) ∧
      ∀ p ∈ adminReservedRanges k, 4 ≤ p.1 ∧ p.2 ≤ 32 ∧ ∀ i ∈ adminLayout k, i < p.1 ∨ p.2 ≤ i := by
  cases k <;> decide

/-- The reserved bytes of a record are zero when byte 1 and its kind's ranges are (R192). -/
theorem adminReservedOk_iff (k : AdminKind) (r : RawRecord) :
    adminReservedOk k r = true ↔ byteAt r 1 = 0 ∧ ∀ p ∈ adminReservedRanges k, ZeroBytes r p.1 p.2 := by
  obtain ⟨hcover, hinside⟩ := adminReservedRanges_spec k
  simp only [adminReservedOk, Bool.and_eq_true, beq_iff_eq, List.all_eq_true, List.mem_range, Bool.or_eq_true,
    List.contains_iff_mem]
  refine and_congr_right fun _ => ⟨fun h p hp i hlo hhi => ?_, fun h i hi => ?_⟩
  · obtain ⟨hfirst, hlast, hout⟩ := hinside p hp
    have hbyte := h (i - 4) (by omega)
    rw [show i - 4 + 4 = i by omega] at hbyte
    refine hbyte.resolve_left fun hmem => ?_
    have := hout i hmem
    omega
  · refine or_iff_not_imp_left.mpr fun hmem => ?_
    obtain ⟨p, hp, hlo, hhi⟩ := hcover i hi hmem
    exact h p hp (i + 4) hlo hhi

/-! ## Fields of the records -/

theorem isFlagCode_iff (b : Byte) : isFlagCode b = true ↔ b.toNat ≤ 1 := by
  simp only [isFlagCode, Bool.or_eq_true, beq_iff_eq, BitVec.toNat_eq, BitVec.ofNat_eq_ofNat, BitVec.toNat_ofNat]
  omega

theorem isRingSize_iff (n : Nat) : isRingSize n = true ↔ RingSize n := by
  refine ⟨fun h => ?_, fun ⟨k, hlo, hhi, hn⟩ => ?_⟩
  · simp only [isRingSize, List.contains_iff_mem, List.mem_cons, List.not_mem_nil, or_false] at h
    obtain rfl | rfl | rfl | rfl | rfl | rfl | rfl | rfl | rfl := h
    exacts [⟨4, by decide⟩, ⟨5, by decide⟩, ⟨6, by decide⟩, ⟨7, by decide⟩, ⟨8, by decide⟩, ⟨9, by decide⟩,
      ⟨10, by decide⟩, ⟨11, by decide⟩, ⟨12, by decide⟩]
  · subst hn
    interval_cases k <;> rfl

/-- The sizes of a zone (R117). -/
theorem zoneSize_iff (n : Nat) : [1, 2, 4, 8, 16, 32, 64].contains n = true ↔ ∃ k : Nat, k ≤ 6 ∧ n = 2 ^ k := by
  refine ⟨fun h => ?_, fun ⟨k, hk, hn⟩ => ?_⟩
  · simp only [List.contains_iff_mem, List.mem_cons, List.not_mem_nil, or_false] at h
    obtain rfl | rfl | rfl | rfl | rfl | rfl | rfl := h
    exacts [⟨0, by decide⟩, ⟨1, by decide⟩, ⟨2, by decide⟩, ⟨3, by decide⟩, ⟨4, by decide⟩, ⟨5, by decide⟩,
      ⟨6, by decide⟩]
  · subst hn
    interval_cases k <;> rfl

theorem threshOk_iff (thresh size : Nat) :
    threshOk thresh size = true ↔ 1 ≤ thresh ∧ thresh ≤ 32 ∧ thresh < size := by
  simp only [threshOk, Bool.and_eq_true, decide_eq_true_eq]
  omega

/-- A literal slot byte codes a literal when R82 admits it. -/
theorem literalOf_isSome_iff (b : Byte) : (literalOf b).isSome = true ↔ LiteralByteOk b.toNat := by
  have hkind : (b.extractLsb' 5 2).toNat = b.toNat / 32 % 4 := by
    rw [BitVec.extractLsb'_toNat, Nat.shiftRight_eq_div_pow]
  have hindex : (b.extractLsb' 0 5).toNat = b.toNat % 32 := by
    rw [BitVec.extractLsb'_toNat, Nat.shiftRight_zero]
  have hzero : b = 0 ↔ b.toNat = 0 := BitVec.toNat_eq
  have hlt : b.toNat / 32 % 4 < 4 := Nat.mod_lt _ (by decide)
  simp only [literalOf, LiteralByteOk, hkind, hindex, beq_iff_eq, hzero]
  generalize b.toNat / 32 % 4 = kind at hlt ⊢
  interval_cases kind <;> simp [apply_ite]

/-- A byte whose bits from bit 2 on are zero (R180). -/
theorem upperBits_eq_zero_iff (b : Byte) : b.extractLsb' 2 6 = 0 ↔ b.toNat < 4 := by
  rw [BitVec.toNat_eq, BitVec.extractLsb'_toNat, Nat.shiftRight_eq_div_pow]
  have := b.isLt
  simp
  omega

theorem wordAt_eq_zero_iff (r : RawRecord) (i : Nat) : wordAt r i = 0 ↔ ZeroBytes r i (i + 4) :=
  extractBytes_eq_zero_iff r i 4

theorem zeroBytes_one (r : RawRecord) (i : Nat) : ZeroBytes r i (i + 1) ↔ byteAt r i = 0 := by
  rw [zeroBytes_cons r (by omega), and_iff_left (zeroBytes_self r _)]

/-- The literal slots of a group of `n` terms: each codes a literal, and those of the other terms are unused (R82). -/
theorem groupSlots_iff (r : RawRecord) {n : Nat} (hn : n ≤ 4) :
    (((List.range 16).all (fun i =>
        (literalOf (byteAt r (6 + i))).isSome && (decide (i / 4 < n) || byteAt r (6 + i) == 0))) = true ∧
      ZeroBytes r 22 32) ↔
    (∀ i < 16, LiteralByteOk (byteAt r (6 + i)).toNat) ∧ ZeroBytes r (6 + 4 * n) 32 := by
  simp only [List.all_eq_true, List.mem_range, Bool.and_eq_true, Bool.or_eq_true, decide_eq_true_eq, beq_iff_eq,
    literalOf_isSome_iff]
  refine ⟨fun ⟨hslots, hrest⟩ => ⟨fun i hi => (hslots i hi).1, fun j hlo hhi => ?_⟩,
    fun ⟨hslots, hzero⟩ => ⟨fun i hi => ⟨hslots i hi, ?_⟩, fun j hlo => hzero j (by omega)⟩⟩
  · by_cases hj : j < 22
    · have hslot := (hslots (j - 6) (by omega)).2.resolve_left (by omega)
      rwa [show 6 + (j - 6) = j by omega] at hslot
    · exact hrest j (not_lt.mp hj) hhi
  · refine or_iff_not_imp_left.mpr fun hterm => hzero (6 + i) (by omega) (by omega)

/-! ## The checks of each kind -/

theorem adminOk_iff (k : AdminKind) (r : RawRecord) : adminOk k r = true ↔ AdminFields k r := by
  have reserved (k : AdminKind) := adminReservedOk_iff k r
  cases k with
  | defineGroup =>
    simp only [adminOk, AdminFields, defineGroupOk, reserved, adminReservedRanges, groupNumberOk, Bool.and_eq_true,
      decide_eq_true_eq, List.forall_mem_singleton]
    refine ⟨fun ⟨⟨⟨⟨hfirst, hrest⟩, hnumber⟩, hterms⟩, hslots⟩ => ⟨hfirst, hnumber, hterms, ?_⟩,
      fun ⟨hfirst, hnumber, hterms, hslots⟩ => ?_⟩
    · exact (groupSlots_iff r hterms).mp ⟨hslots, hrest⟩
    · obtain ⟨hall, hrest⟩ := (groupSlots_iff r hterms).mpr hslots
      exact ⟨⟨⟨⟨hfirst, hrest⟩, hnumber⟩, hterms⟩, hall⟩
  | enterRun =>
    simp only [adminOk, AdminFields, enterRunOk, reserved, adminReservedRanges, upperBits_eq_zero_iff,
      wordAt_eq_zero_iff, Bool.and_eq_true, Bool.or_eq_true, beq_iff_eq, List.forall_mem_cons, List.not_mem_nil,
      false_implies, implies_true, and_true, ← Bool.not_eq_true, ← or_iff_not_imp_left]
    tauto
  | setSupervision | enterConfigure | restoreSupervision | digest =>
    simp only [adminOk, AdminFields, reserved, adminReservedRanges, List.forall_mem_singleton]
  | configureRing | configureCompletion =>
    simp only [adminOk, AdminFields, configureRingOk, configureCompletionOk, reserved, adminReservedRanges,
      ringNumberOk, aligned64_iff, isRingSize_iff, isFlagCode_iff, threshOk_iff, zeroBytes_one, Bool.and_eq_true,
      decide_eq_true_eq, beq_iff_eq, List.forall_mem_cons, List.not_mem_nil, false_implies, implies_true, and_true]
    tauto
  | definePoint | defineInput | clearPointFault =>
    simp only [adminOk, AdminFields, definePointOk, defineInputOk, clearPointFaultOk, reserved, adminReservedRanges,
      isFlagCode_iff, Bool.and_eq_true, decide_eq_true_eq, List.forall_mem_singleton]
    tauto
  | defineZone =>
    simp only [adminOk, AdminFields, defineZoneOk, reserved, adminReservedRanges, isFlagCode_iff, zoneSize_iff,
      upperNibble_eq_zero_iff, Bool.and_eq_true, decide_eq_true_eq, beq_iff_eq, List.forall_mem_singleton]
    tauto
  | forceGroup | ringReset =>
    simp only [adminOk, AdminFields, forceGroupOk, ringResetOk, reserved, adminReservedRanges, groupNumberOk,
      ringNumberOk, isFlagCode_iff, Bool.and_eq_true, decide_eq_true_eq, List.forall_mem_singleton]
    tauto
  | snapshot =>
    simp only [adminOk, AdminFields, snapshotOk, reserved, adminReservedRanges, aligned64_iff, Bool.and_eq_true,
      List.forall_mem_cons, List.not_mem_nil, false_implies, implies_true, and_true]
    tauto

/-- Settles O26: the checks and the codes by their bytes, then the taking answered BADREC. -/
theorem adminRefusedByParameters : Obligations.AdminRefusedByParameters :=
  ⟨adminOk_iff, adminKindOf_iff, fun s k _ _ _ ht hp hok =>
    closes_admin (exec_adminCommand k s) ht hp (adminExecute_badrec hok)⟩

end Sys2Proof.Machine
end

section
/-! The end of the boot read: what a good block is, and the entry into CONFIGURE or HALTED (R136, R156, R177, R178;
O7). -/

namespace Sys2Proof.Machine

variable {s : State} {op : BootRead} {b : BootBlock} {how : ReadFault}

/-- The checks of R178 accept a block that holds what the tables of 11.3 and 12.4 allow. -/
theorem bootBlockOk_iff (b : BootBlock) : bootBlockOk b = true ↔ BootFields b := by
  have hfirst : b.extractLsb' 8 56 = 0 ↔ ZeroBytes b 1 8 := extractBytes_eq_zero_iff b 1 7
  have hmiddle : b.extractLsb' 144 48 = 0 ↔ ZeroBytes b 18 24 := extractBytes_eq_zero_iff b 18 6
  have hlast : b.extractLsb' 288 224 = 0 ↔ ZeroBytes b 36 64 := extractBytes_eq_zero_iff b 36 28
  simp only [bootBlockOk, BootFields, Bool.and_eq_true, beq_iff_eq, decide_eq_true_eq, aligned64_iff, isRingSize_iff,
    threshOk_iff, hfirst, hmiddle, hlast, and_assoc]
  exact ⟨fun ⟨version, r1, base, lo, hi, r2, cbase, size, t1, t2, t3, r3⟩ =>
      ⟨version, base, lo, hi, cbase, size, t1, t2, t3, r1, r2, r3⟩,
    fun ⟨version, base, lo, hi, cbase, size, t1, t2, t3, r1, r2, r3⟩ =>
      ⟨version, r1, base, lo, hi, r2, cbase, size, t1, t2, t3, r3⟩⟩

theorem booting?_eq_some {d : Device} (hs : d.dstate = .booting) (hop : d.bootRead = some op) :
    d.booting? = some op := by
  rw [Device.booting?, if_pos (beq_iff_eq.mpr hs), hop]

/-- The arrival of the boot read, closed (R178). -/
theorem closes_bootArrival {x : Device} (hs : s.dev.dstate = .booting) (hop : s.dev.bootRead = some op)
    (hx : (if bootBlockOk b then s.dev.bootSucceeds b else s.dev.halt .bootbad) = x) :
    Closes (.bootReadArrival b) s x := by
  refine closes_event (f := fun d => if bootBlockOk b then d.bootSucceeds b else d.halt .bootbad) ?_ hx
  simp only [exec, execBootReadArrival, State.run, Device.bootArrival, booting?_eq_some hs hop]

/-- The failure of the boot read in a way it can fail now, closed (R177). -/
theorem closes_bootFailure (hs : s.dev.dstate = .booting) (hop : s.dev.bootRead = some op)
    (hf : failsNow s.dev.now op.issued how = true) : Closes (.bootReadFailure how) s (s.dev.halt .bootflt) := by
  refine closes_event (f := fun d => d.halt .bootflt) ?_ rfl
  simp only [exec, execBootReadFailure, State.run, Device.bootFailure, booting?_eq_some hs hop, hf, if_true]

/-- A boot read that cannot fail in this way now goes on (log 4). -/
theorem exec_bootFailure_early (hs : s.dev.dstate = .booting) (hop : s.dev.bootRead = some op)
    (hf : failsNow s.dev.now op.issued how = false) : exec (.bootReadFailure how) s = .next s := by
  simp only [exec, execBootReadFailure, State.run, Device.bootFailure, booting?_eq_some hs hop, hf,
    Bool.false_eq_true, if_false]

/-- Settles O7: the checks by their bytes, the arrival by them, the failure by its way and time. -/
theorem bootReadEnds : Obligations.BootReadEnds :=
  ⟨bootBlockOk_iff, fun _ _ hs hop =>
    ⟨fun _ hb => closes_bootArrival hs hop (if_pos hb),
      fun _ hb => closes_bootArrival hs hop (if_neg (ne_true_of_eq_false hb)), closes_bootFailure hs hop rfl,
      closes_bootFailure (how := .timeout) hs hop, exec_bootFailure_early (how := .timeout) hs hop⟩⟩

end Sys2Proof.Machine
end

section
/-! DIGEST (R188, R193; O38): the configuration serialization byte by byte, and the CRC-32 bit by bit. -/

namespace Sys2Proof.Machine

variable {d : Device}

/-! ## Bytes of a list -/

theorem numberAt_one (l : List Byte) (i : Nat) : numberAt l i 1 = (l.getD i 0).toNat := rfl

theorem numberAt_two (l : List Byte) (i : Nat) :
    numberAt l i 2 = (l.getD i 0).toNat + 256 * (l.getD (i + 1) 0).toNat := rfl

theorem getD_append_length {l l' l'' : List Byte} {n k : Nat} (hn : l.length = n) (hk : k < l'.length) :
    (l ++ l' ++ l'').getD (n + k) 0 = l'.getD k 0 := by
  subst hn
  rw [List.append_assoc, List.getD_append_right _ _ _ _ (Nat.le_add_right _ k), Nat.add_sub_cancel_left,
    List.getD_append _ _ _ _ hk]

section
variable {α : Type} {f : α → List Byte} {w : Nat} (hf : ∀ x, (f x).length = w)
include hf

theorem length_flatMap_of_length (l : List α) : (l.flatMap f).length = l.length * w := by
  rw [List.length_flatMap, List.map_congr_left (fun x _ => hf x), List.map_const', List.sum_replicate, smul_eq_mul]

/-- Elements that take `w` bytes each stand one behind the other. -/
theorem getD_flatMap_of_length (l : List α) {i j : Nat} (hi : i < l.length) (hj : j < w) :
    (l.flatMap f).getD (w * i + j) 0 = (f l[i]).getD j 0 := by
  induction l generalizing i with
  | nil => cases hi
  | cons x xs ih =>
    rw [List.flatMap_cons]
    cases i with
    | zero =>
      rw [Nat.mul_zero, Nat.zero_add, List.getD_append _ _ _ _ (by rw [hf]; exact hj)]
      rfl
    | succ i =>
      rw [List.getD_append_right _ _ _ _ (by rw [hf, Nat.mul_succ]; omega), hf,
        show w * (i + 1) + j - w = w * i + j by rw [Nat.mul_succ]; omega]
      exact ih (by simpa using hi)

end

/-! ## The fields as bytes -/

theorem flagByte_toNat (b : Bool) : (flagByte b).toNat = b.toNat := by cases b <;> rfl

theorem pointConfigByte_toNat (p : Point) :
    (pointConfigByte p).toNat = p.group.val + 16 * (decide (p.mode = .held)).toNat + 32 * p.readback.toNat := by
  have hmode : (if p.mode = .held then 0x10 else 0) = 16 * (decide (p.mode = .held)).toNat := by split <;> simp_all
  have hread : (if p.readback then 0x20 else 0) = 32 * p.readback.toNat := by cases p.readback <;> rfl
  have h1 := (decide (p.mode = .held)).toNat_le
  have h2 := p.readback.toNat_le
  rw [pointConfigByte, hmode, hread, BitVec.toNat_ofNat]
  exact Nat.mod_eq_of_lt (by omega)

theorem literalByte_toNat (x : Literal) : (literalByte x).toNat = literalCode x := by
  have hneg (neg : Bool) : (if neg then 0x80 else 0) = 128 * neg.toNat := by cases neg <;> rfl
  cases x with
  | unused => rfl
  | input i neg | gate g neg | supok neg =>
    have := neg.toNat_le
    rw [literalByte, literalCode, hneg, BitVec.toNat_ofNat]
    exact Nat.mod_eq_of_lt (by omega)

/-! ## The serialization (12.6) -/

theorem groupConfigBytes_length (g : Group) : (groupConfigBytes g).length = 17 := by simp [groupConfigBytes]

/-- The five parts of the serialization take 64, 64, 64, 119 and 2 bytes. -/
theorem serialization_lengths (d : Device) :
    (d.points.toList.map pointConfigByte).length = 64 ∧ (d.inputs.toList.flatMap inputConfigBytes).length = 64 ∧
      (d.zones.toList.flatMap zoneConfigBytes).length = 64 ∧ (d.groups.toList.flatMap groupConfigBytes).length = 119 ∧
      (bytesOf 2 d.sup.interval.toNat).length = 2 := by
  refine ⟨by simp, ?_, ?_, ?_, by simp [bytesOf]⟩
  · rw [length_flatMap_of_length (w := 2) fun _ => rfl, Vector.length_toList]
  · rw [length_flatMap_of_length (w := 8) fun _ => rfl, Vector.length_toList]
  · rw [length_flatMap_of_length groupConfigBytes_length, Vector.length_toList]

theorem serialization_length (d : Device) : d.serialization.length = 313 := by
  obtain ⟨hp, hi, hz, hg, hs⟩ := serialization_lengths d
  simp only [Device.serialization, List.length_append, hp, hi, hz, hg, hs]

theorem serialization_point (d : Device) (p : PointId) :
    d.serialization.getD p.val 0 = pointConfigByte d.points[p] := by
  obtain ⟨hp, -⟩ := serialization_lengths d
  have hlt : p.val < (d.points.toList.map pointConfigByte).length := by rw [hp]; exact p.isLt
  simp only [Device.serialization, List.append_assoc]
  rw [List.getD_append _ _ _ _ hlt, List.getD_eq_getElem _ _ hlt]
  simp

theorem serialization_input (d : Device) (i : InputId) {j : Nat} (hj : j < 2) :
    d.serialization.getD (64 + (2 * i.val + j)) 0 = (inputConfigBytes d.inputs[i]).getD j 0 := by
  obtain ⟨hp, hi, -⟩ := serialization_lengths d
  have hlt : 2 * i.val + j < (d.inputs.toList.flatMap inputConfigBytes).length := by rw [hi]; omega
  have hget := getD_flatMap_of_length (f := inputConfigBytes) (fun _ => rfl) d.inputs.toList (i := i.val) (by simp) hj
  rw [Device.serialization, List.append_assoc, List.append_assoc, getD_append_length hp hlt, hget]
  simp

theorem serialization_zone (d : Device) (z : Fin 8) {j : Nat} (hj : j < 8) :
    d.serialization.getD (128 + (8 * z.val + j)) 0 = (zoneConfigBytes d.zones[z]).getD j 0 := by
  obtain ⟨hp, hi, hz, -⟩ := serialization_lengths d
  have hlt : 8 * z.val + j < (d.zones.toList.flatMap zoneConfigBytes).length := by rw [hz]; omega
  have hget := getD_flatMap_of_length (f := zoneConfigBytes) (fun _ => rfl) d.zones.toList (i := z.val) (by simp) hj
  rw [Device.serialization, List.append_assoc, getD_append_length (by rw [List.length_append, hp, hi]) hlt, hget]
  simp

theorem serialization_group (d : Device) (k : Fin 7) {j : Nat} (hj : j < 17) :
    d.serialization.getD (192 + (17 * k.val + j)) 0 = (groupConfigBytes d.groups[k]).getD j 0 := by
  obtain ⟨hp, hi, hz, hg, -⟩ := serialization_lengths d
  have hlt : 17 * k.val + j < (d.groups.toList.flatMap groupConfigBytes).length := by rw [hg]; omega
  have hget := getD_flatMap_of_length groupConfigBytes_length d.groups.toList (i := k.val) (by simp) hj
  rw [Device.serialization, getD_append_length (by simp only [List.length_append, hp, hi, hz]) hlt, hget]
  simp

theorem serialization_interval (d : Device) {j : Nat} (hj : j < 2) :
    d.serialization.getD (311 + j) 0 = (bytesOf 2 d.sup.interval.toNat).getD j 0 := by
  obtain ⟨hp, hi, hz, hg, hs⟩ := serialization_lengths d
  rw [Device.serialization, ← List.append_nil (bytesOf _ _), ← List.append_assoc,
    getD_append_length (by simp only [List.length_append, hp, hi, hz, hg]) (by rw [hs]; exact hj), List.append_nil]

theorem serialization_holds_zone (d : Device) (z : Fin 8) {i : Nat} (hi : i = 128 + 8 * z.val) :
    numberAt d.serialization i 1 = d.zones[z].en.toNat ∧
      numberAt d.serialization (i + 1) 1 = d.zones[z].base % 256 ∧
      numberAt d.serialization (i + 2) 1 = d.zones[z].size % 256 ∧
      numberAt d.serialization (i + 3) 1 = d.zones[z].rings.toNat ∧
      numberAt d.serialization (i + 4) 1 = d.zones[z].onok.toNat ∧
      numberAt d.serialization (i + 5) 1 = d.zones[z].offok.toNat ∧ numberAt d.serialization (i + 6) 2 = 0 := by
  have hbyte {j : Nat} (hj : j < 8) :
      numberAt d.serialization (i + j) 1 = ((zoneConfigBytes d.zones[z]).getD j 0).toNat := by
    rw [numberAt_one, hi, Nat.add_assoc, serialization_zone d z hj]
  have hrings : ((d.zones[z].rings.setWidth 8 : Byte)).toNat = d.zones[z].rings.toNat := by
    rw [BitVec.toNat_setWidth]
    exact Nat.mod_eq_of_lt (d.zones[z].rings.isLt.trans (by decide))
  refine ⟨?_, ?_, ?_, ?_, ?_, ?_, ?_⟩
  · exact (hbyte (j := 0) (by decide)).trans (flagByte_toNat _)
  · exact (hbyte (j := 1) (by decide)).trans (BitVec.toNat_ofNat _ _)
  · exact (hbyte (j := 2) (by decide)).trans (BitVec.toNat_ofNat _ _)
  · exact (hbyte (j := 3) (by decide)).trans hrings
  · exact (hbyte (j := 4) (by decide)).trans (flagByte_toNat _)
  · exact (hbyte (j := 5) (by decide)).trans (flagByte_toNat _)
  · rw [numberAt_two, ← numberAt_one, ← numberAt_one, hbyte (j := 6) (by decide), Nat.add_assoc,
      hbyte (j := 7) (by decide)]
    rfl

theorem serialization_holds_group (d : Device) (k : Fin 7) :
    numberAt d.serialization (192 + 17 * k.val) 1 = d.groups[k].terms % 256 ∧
      ∀ j : Fin 16, numberAt d.serialization (193 + 17 * k.val + j.val) 1 = literalCode d.groups[k].lits[j] := by
  refine ⟨?_, fun j => ?_⟩
  · have hfirst := serialization_group d k (j := 0) (by decide)
    exact (congrArg BitVec.toNat hfirst).trans (BitVec.toNat_ofNat _ _)
  · have hlt : j.val < (d.groups[k].lits.toList.map literalByte).length := by simp
    rw [numberAt_one, show 193 + 17 * k.val + j.val = 192 + (17 * k.val + (j.val + 1)) by omega,
      serialization_group d k (by omega), groupConfigBytes, List.getD_cons_succ, List.getD_eq_getElem _ _ hlt]
    simp [literalByte_toNat]

theorem serialization_holds_interval (d : Device) : numberAt d.serialization 311 2 = d.sup.interval.toNat := by
  have hlt := d.sup.interval.isLt
  rw [numberAt_two, serialization_interval d (j := 0) (by decide), serialization_interval d (j := 1) (by decide)]
  simp [bytesOf, List.range_succ]
  omega

/-- The serialization holds the table of 12.6. -/
theorem serialization_holds (d : Device) : d.ConfigurationHolds d.serialization := by
  refine ⟨serialization_length d, fun p => ?_, fun i => ⟨?_, ?_⟩, fun z _ => serialization_holds_zone d z,
    serialization_holds_group d, serialization_holds_interval d⟩
  · rw [numberAt_one, serialization_point, pointConfigByte_toNat]
  · exact congrArg BitVec.toNat (serialization_input d i (j := 0) (by decide))
  · rw [numberAt_one, show 65 + 2 * i.val = 64 + (2 * i.val + 1) by omega, serialization_input d i (by decide)]
    exact flagByte_toNat _

/-- After a reset every byte is zero but for each zone's SIZE 1 (R79, R99, R116, R124, R193). -/
theorem applyReset_serialization (d : Device) (cause : RCause) :
    (d.applyReset cause).serialization =
      List.replicate 128 0 ++ (List.replicate 8 [0, 0, 1, 0, 0, 0, 0, 0]).flatten ++ List.replicate 121 0 := by
  have hpoints : (d.applyReset cause).points.toList.map pointConfigByte = List.replicate 64 0 := by
    refine List.eq_replicate_iff.mpr ⟨by simp, fun b hb => ?_⟩
    simp only [Device.applyReset, Device.afterReset, Vector.toList_map, List.map_map, List.mem_map] at hb
    obtain ⟨p, -, rfl⟩ := hb
    rfl
  have hinputs : (d.applyReset cause).inputs.toList.flatMap inputConfigBytes = List.replicate 64 0 := by
    obtain ⟨-, hlength, -⟩ := serialization_lengths (d.applyReset cause)
    refine List.eq_replicate_iff.mpr ⟨hlength, fun b hb => ?_⟩
    simp only [Device.applyReset, Device.afterReset, Vector.toList_map, List.map_map,
      List.mem_flatMap, List.mem_map] at hb
    obtain ⟨i, ⟨pin, -, rfl⟩, hb⟩ := hb
    simpa [inputConfigBytes, Input.atReset, flagByte] using hb
  have hzones : (d.applyReset cause).zones.toList.flatMap zoneConfigBytes =
      (List.replicate 8 [0, 0, 1, 0, 0, 0, 0, 0]).flatten := rfl
  have hgroups : (d.applyReset cause).groups.toList.flatMap groupConfigBytes = List.replicate 119 0 := rfl
  have hinterval : bytesOf 2 (d.applyReset cause).sup.interval.toNat = List.replicate 2 0 := by
    simp [bytesOf, Device.applyReset, Device.afterReset, Supervision.atReset]
  rw [Device.serialization, hpoints, hinputs, hzones, hgroups, hinterval, List.append_assoc,
    List.replicate_append_replicate, List.replicate_append_replicate]

/-! ## The CRC-32 -/

/-- A register with bits still to enter: the shift enters the lowest of them (R188). -/
theorem crcBit_xor (c x : Word) : crcBit (c ^^^ x) = crcEnter c (x.getLsbD 0) ^^^ (x >>> 1) := by
  unfold crcBit crcEnter
  rw [BitVec.getLsbD_xor, BitVec.ushiftRight_xor_distrib]
  split
  · rw [BitVec.xor_assoc, BitVec.xor_assoc, BitVec.xor_comm (x >>> 1)]
  · rfl

theorem crcByte_eq (c : Word) (b : Byte) : crcByte c b = ((List.range 8).map b.getLsbD).foldl crcEnter c := by
  have hbit (i : Nat) : ((b.setWidth 32 : Word) >>> i).getLsbD 0 = b.getLsbD i := by
    simp only [BitVec.getLsbD_ushiftRight, BitVec.getLsbD_setWidth, Nat.add_zero, Bool.and_eq_right_iff_imp,
      decide_eq_true_eq]
    exact fun h => (BitVec.lt_of_getLsbD h).trans (by decide)
  have hgone : (b.setWidth 32 : Word) >>> 8 = 0#32 := by
    have := b.isLt
    refine BitVec.eq_of_toNat_eq ?_
    simp [Nat.shiftRight_eq_div_pow]
    omega
  have hlow : (b.setWidth 32 : Word).getLsbD 0 = b.getLsbD 0 := hbit 0
  simp only [crcByte, crcBit_xor, ← BitVec.shiftRight_add, Nat.reduceAdd, hlow, hbit, hgone, BitVec.xor_zero]
  rfl

theorem crc32_eq (bytes : List Byte) :
    crc32 bytes =
      (bytes.flatMap (fun b => (List.range 8).map b.getLsbD)).foldl crcEnter 0xFFFFFFFF ^^^ 0xFFFFFFFF := by
  rw [crc32, funext₂ crcByte_eq, List.foldl_flatMap]

/-- Settles O38: the taking, the bytes of the serialization, the register's bits, and the reset state. -/
theorem digestOfConfiguration : Obligations.DigestOfConfiguration := by
  refine ⟨fun s head rest a ht hs hok => ?_, fun d => ⟨serialization_holds d, rfl⟩, crc32_eq, fun d t cause ht => ?_⟩
  · exact closes_admin rfl ht (by simpa [Device.adminPermitted] using hs) (if_pos hok)
  · rw [ht, applyReset_serialization]

end Sys2Proof.Machine
end

section
/-! SNAPSHOT (R186, R187, R194; O37): the image part by part, byte by byte, and the event of its write. -/

namespace Sys2Proof.Machine

variable {d : Device}

/-! ## Numbers in a list of bytes -/

/-- A number is read from its own bytes alone. -/
theorem numberAt_congr {l l' : List Byte} {i i' n : Nat} (h : ∀ j < n, l.getD (i + j) 0 = l'.getD (i' + j) 0) :
    numberAt l i n = numberAt l' i' n := by
  induction n generalizing i i' with
  | zero => rfl
  | succ n ih =>
    have hrest : numberAt l (i + 1) n = numberAt l' (i' + 1) n := ih fun j hj => by
      rw [Nat.add_assoc, Nat.add_assoc, Nat.add_comm 1 j]
      exact h (j + 1) (Nat.succ_lt_succ hj)
    have hfirst : l.getD i 0 = l'.getD i' 0 := h 0 n.succ_pos
    rw [numberAt, numberAt, hrest, hfirst]

/-- The bytes of a number, least significant first, are read back as its lowest bytes. -/
theorem numberAt_of_bytesOf {l : List Byte} {i n v : Nat}
    (h : ∀ j < n, l.getD (i + j) 0 = BitVec.ofNat 8 (v / 256 ^ j)) : numberAt l i n = v % 256 ^ n := by
  induction n generalizing i v with
  | zero => exact (Nat.mod_one v).symm
  | succ n ih =>
    have hrest : numberAt l (i + 1) n = v / 256 % 256 ^ n := ih fun j hj => by
      rw [Nat.add_assoc, Nat.add_comm 1 j, h (j + 1) (Nat.succ_lt_succ hj), Nat.div_div_eq_div_mul, Nat.pow_succ']
    have hfirst : l.getD i 0 = BitVec.ofNat 8 (v / 1) := h 0 n.succ_pos
    rw [numberAt, hrest, hfirst, Nat.div_one, BitVec.toNat_ofNat, Nat.pow_succ' (m := 256), Nat.mod_mul]

theorem numberAt_bytesOf (n v : Nat) : numberAt (bytesOf n v) 0 n = v % 256 ^ n := by
  refine numberAt_of_bytesOf fun j hj => ?_
  rw [List.getD_eq_getElem _ _ (by simpa [bytesOf] using hj)]
  simp [bytesOf]

theorem numberAt_replicate_zero (m i : Nat) : numberAt (List.replicate m 0) i 1 = 0 := by
  by_cases h : i < m <;> simp [numberAt_one, h]

/-- Elements that take `w` bytes each: a number inside one of them. -/
theorem numberAt_flatMap {α : Type} {f : α → List Byte} {w : Nat} (hf : ∀ x, (f x).length = w) (l : List α)
    {i k n : Nat} (hi : i < l.length) (hk : k + n ≤ w) :
    numberAt (l.flatMap f) (w * i + k) n = numberAt (f l[i]) k n :=
  numberAt_congr fun j hj => by
    rw [Nat.add_assoc]
    exact getD_flatMap_of_length hf l hi (by omega)

/-! ## Flags, codes and counts in one byte -/

theorem ofNat_toNat_of_byte {v : Nat} (h : v < 256) : (BitVec.ofNat 8 v).toNat = v :=
  (BitVec.toNat_ofNat v 8).trans (Nat.mod_eq_of_lt h)

/-- Three flags in the bits of one byte. -/
theorem flags_toNat (x y z : Bool) :
    (BitVec.ofNat 8 ((if x then 1 else 0) + (if y then 2 else 0) + (if z then 4 else 0))).toNat =
      x.toNat + 2 * y.toNat + 4 * z.toNat := by
  decide +revert

theorem supvCode_lt (x : Supv) : supvCode x < 256 := by cases x <;> decide

theorem cringStateCode_lt (x : CRingState) : cringStateCode x < 256 := by cases x <;> decide

/-- The byte of a ring's state and fault cause has room for both codes (12.2). -/
theorem ringCodes_lt (state : RingState) (cause : FaultCause) (r : RingId) :
    ringStateCode state + (if r = 0 then 0 else 16 * faultCauseCode cause) < 256 := by
  have hstate : ringStateCode state < 16 := by cases state <;> decide
  have hcause : faultCauseCode cause < 8 := by cases cause <;> decide
  split <;> omega

theorem slots_toList (d : Device) : d.slots.toList = (List.finRange 64).map (fun a => d.slots[a]) :=
  List.ext_getElem (by simp) (by simp)

theorem isHeldBy_eq_any (r : RingId) : isHeldBy r = Option.any (fun e => e.ring == r) :=
  funext fun | none => rfl | some _ => rfl

theorem isLiveOf_eq_any (r : RingId) : isLiveOf r = Option.any (fun e => e.ring == r && e.isLive) :=
  funext fun | none => rfl | some _ => rfl

theorem held_eq (d : Device) (r : RingId) :
    d.held r = (List.finRange 64).countP (fun a => d.slots[a].any (fun e => e.ring == r)) := by
  rw [Device.held, slots_toList, List.countP_map, isHeldBy_eq_any]
  rfl

theorem liveCount_eq (d : Device) (r : RingId) :
    d.liveCount r = (List.finRange 64).countP (fun a => d.slots[a].any (fun e => e.ring == r && e.isLive)) := by
  rw [Device.liveCount, slots_toList, List.countP_map, isLiveOf_eq_any]
  rfl

theorem freeSlots_action (d : Device) :
    d.freeSlots 1 = (List.finRange 64).countP (fun a => decide (a.val < 60) && d.slots[a].isNone) := by
  rw [Device.freeSlots, poolSlots_action, List.countP_filter]
  exact List.countP_congr fun a _ => by rw [Bool.and_comm]

theorem freeSlots_admin (d : Device) :
    d.freeSlots 0 = (List.finRange 64).countP (fun a => decide (60 ≤ a.val) && d.slots[a].isNone) := by
  rw [Device.freeSlots, poolSlots_admin, List.countP_filter]
  exact List.countP_congr fun a _ => by rw [Bool.and_comm]

/-- A count over the slots fits its byte. -/
theorem countP_slots_byte (q : Slot → Bool) :
    (BitVec.ofNat 8 ((List.finRange 64).countP q)).toNat = (List.finRange 64).countP q := by
  have hle : (List.finRange 64).countP q ≤ 64 := List.countP_le_length.trans_eq (List.length_finRange)
  exact ofNat_toNat_of_byte (by omega)

/-! ## The parts of the image -/

/-- The parts of the image as the table of 12.5 lists them: the first byte, the number of bytes, and the bytes. -/
def Device.snapshotParts (d : Device) : List (Nat × Nat × List Byte) :=
  [(0, 4, bytesOf 4 d.now.toNat),
    (4, 4, [BitVec.ofNat 8 (dstateCode d.dstate), BitVec.ofNat 8 (hreasonCode d.hreason),
      BitVec.ofNat 8 d.timing.length, 0]),
    (8, 4, bytesOf 4 d.alert.toNat),
    (12, 4, List.replicate 4 0),
    (16, 64, d.points.toList.map pointSnapByte),
    (80, 64, d.inputs.toList.flatMap inputSnapBytes),
    (144, 28, d.groups.toList.flatMap groupSnapBytes),
    (172, 2, [BitVec.ofNat 8 (supvCode d.sup.supv), 0]),
    (174, 2, bytesOf 2 d.sup.interval.toNat),
    (176, 4, bytesOf 4 (countdownField d.sup.countdown)),
    (180, 40, (List.finRange 5).flatMap d.ringSnapBytes),
    (220, 4, [BitVec.ofNat 8 (d.freeSlots 1), BitVec.ofNat 8 (d.freeSlots 0), 0, 0]),
    (224, 8, cringSnapBytes d.c0),
    (232, 8, cringSnapBytes d.c1),
    (240, 16, List.replicate 16 0)]

theorem snapshotImage_eq (d : Device) : d.snapshotImage = (d.snapshotParts.map (·.2.2)).flatten := by
  simp only [Device.snapshotImage, Device.snapshotParts, List.map_cons, List.map_nil, List.flatten_cons,
    List.flatten_nil, List.append_nil, List.append_assoc]

/-- Each part has the number of bytes the table gives it. -/
theorem snapshotParts_length (d : Device) : d.snapshotParts.map (·.2.2.length) = d.snapshotParts.map (·.2.1) := by
  have hpoints : (d.points.toList.map pointSnapByte).length = 64 := by simp
  have hinputs : (d.inputs.toList.flatMap inputSnapBytes).length = 64 := by
    rw [length_flatMap_of_length (w := 2) fun _ => rfl, Vector.length_toList]
  have hgroups : (d.groups.toList.flatMap groupSnapBytes).length = 28 := by
    rw [length_flatMap_of_length (w := 4) fun _ => rfl, Vector.length_toList]
  simp only [Device.snapshotParts, List.map_cons, List.map_nil, hpoints, hinputs, hgroups]
  rfl

/-- Each part begins where the parts before it end. -/
theorem snapshotParts_start (d : Device) :
    d.snapshotParts.map (·.1) =
      (List.range d.snapshotParts.length).map (fun j => ((d.snapshotParts.map (·.2.1)).take j).sum) := by
  simp only [Device.snapshotParts, List.map_cons, List.map_nil, List.length_cons, List.length_nil]
  decide

theorem snapshotImage_length (d : Device) : d.snapshotImage.length = 256 := by
  rw [snapshotImage_eq, List.length_flatten, List.map_map]
  exact (congrArg List.sum (snapshotParts_length d)).trans (by simp [Device.snapshotParts])

/-- A number inside a part of the image is read from the part alone: `j` is the part's place in the table, `k` the
number's place in the part. -/
theorem numberAt_snapshotImage (j k : Nat) {m w n i : Nat} {part : List Byte}
    (hj : d.snapshotParts[j]? = some (m, w, part)) (hi : i = m + k) (hk : k + n ≤ w) :
    numberAt d.snapshotImage i n = numberAt part k n := by
  obtain ⟨hlt, hget⟩ := List.getElem?_eq_some_iff.mp hj
  have hlengths := List.map_inj_left.mp (snapshotParts_length d)
  have hw : part.length = w := hlengths _ (List.mem_of_getElem? hj)
  have hbefore : (((d.snapshotParts.take j).map (·.2.2)).flatten).length = m := by
    have hstart := congrArg (·[j]?) (snapshotParts_start d)
    simp only [List.getElem?_map, hj, List.getElem?_range hlt, Option.map_some, Option.some_inj] at hstart
    rw [hstart, List.length_flatten, List.map_map, ← List.map_take]
    exact congrArg List.sum (List.map_congr_left fun x hx => hlengths x (List.mem_of_mem_take hx))
  have hsplit : d.snapshotParts = d.snapshotParts.take j ++ (m, w, part) :: d.snapshotParts.drop (j + 1) := by
    rw [← hget, ← List.drop_eq_getElem_cons hlt, List.take_append_drop]
  have himage : d.snapshotImage =
      ((d.snapshotParts.take j).map (·.2.2)).flatten ++ part ++
        ((d.snapshotParts.drop (j + 1)).map (·.2.2)).flatten := by
    conv_lhs => rw [snapshotImage_eq, hsplit]
    simp
  refine numberAt_congr fun b hb => ?_
  rw [himage, hi, Nat.add_assoc]
  exact getD_append_length hbefore (by omega)

/-! ## The fields of the image (12.5) -/

theorem snapshot_point (d : Device) (p : PointId) :
    numberAt d.snapshotImage (16 + p.val) 1 =
      d.points[p].level.toNat + 2 * (decide (d.points[p].pstate = .faulted)).toNat +
        4 * d.points[p].claim.isSome.toNat := by
  have hbyte : numberAt (d.points.toList.map pointSnapByte) p.val 1 = (pointSnapByte d.points[p]).toNat := by
    simp [numberAt_one]
  rw [numberAt_snapshotImage 4 p.val rfl rfl (by omega), hbyte, ← flags_toNat]
  simp [pointSnapByte]

theorem snapshot_input (d : Device) (i : InputId) :
    numberAt d.snapshotImage (80 + 2 * i.val) 1 =
        d.inputs[i].qualified.toNat + 2 * d.inputs[i].raw.toNat + 4 * d.inputs[i].pendingSince.isSome.toNat ∧
      numberAt d.snapshotImage (81 + 2 * i.val) 1 = d.inputs[i].waits.length % 256 := by
  have hbytes {k : Nat} (hk : k < 2) :
      numberAt d.snapshotImage (80 + (2 * i.val + k)) 1 = numberAt (inputSnapBytes d.inputs[i]) k 1 := by
    rw [numberAt_snapshotImage 5 (2 * i.val + k) rfl rfl (by omega),
      numberAt_flatMap (f := inputSnapBytes) (fun _ => rfl) _ (by simp) hk]
    simp
  refine ⟨(hbytes (k := 0) (by decide)).trans (flags_toNat _ _ _), ?_⟩
  rw [show 81 + 2 * i.val = 80 + (2 * i.val + 1) by omega, hbytes (by decide)]
  exact BitVec.toNat_ofNat _ _

theorem snapshot_group_bytes (d : Device) (k : Fin 7) {b : Nat} (hb : b < 4) :
    numberAt d.snapshotImage (144 + (4 * k.val + b)) 1 = numberAt (groupSnapBytes d.groups[k]) b 1 := by
  rw [numberAt_snapshotImage 6 (4 * k.val + b) rfl rfl (by omega),
    numberAt_flatMap (f := groupSnapBytes) (fun _ => rfl) _ (by simp) hb]
  simp

theorem snapshot_group (d : Device) (k : Fin 7) :
    numberAt d.snapshotImage (144 + 4 * k.val) 1 = d.groups[k].gate.toNat + 2 * d.groups[k].force.toNat ∧
      numberAt d.snapshotImage (145 + 4 * k.val) 1 = d.groups[k].waits.length % 256 := by
  refine ⟨(snapshot_group_bytes d k (b := 0) (by decide)).trans (flags_toNat _ _ false), ?_⟩
  rw [show 145 + 4 * k.val = 144 + (4 * k.val + 1) by omega, snapshot_group_bytes d k (by decide)]
  exact BitVec.toNat_ofNat _ _

theorem snapshot_ring (d : Device) (r : RingId) :
    numberAt d.snapshotImage (180 + 8 * r.val) 2 = d.rings[r].tail % 65536 ∧
      numberAt d.snapshotImage (182 + 8 * r.val) 2 = d.rings[r].producer % 65536 ∧
      numberAt d.snapshotImage (184 + 8 * r.val) 1 =
        ringStateCode d.rings[r].state + (if r = 0 then 0 else 16 * faultCauseCode d.rings[r].cause) ∧
      numberAt d.snapshotImage (185 + 8 * r.val) 1 = d.rings[r].buf.length % 256 ∧
      numberAt d.snapshotImage (186 + 8 * r.val) 1 =
        (List.finRange 64).countP (fun a => d.slots[a].any (fun e => e.ring == r)) ∧
      numberAt d.snapshotImage (187 + 8 * r.val) 1 =
        (List.finRange 64).countP (fun a => d.slots[a].any (fun e => e.ring == r && e.isLive)) := by
  have hbytes {i : Nat} (k : Nat) {n : Nat} (hi : i = 180 + (8 * r.val + k)) (hk : k + n ≤ 8) :
      numberAt d.snapshotImage i n = numberAt (d.ringSnapBytes r) k n := by
    rw [numberAt_snapshotImage 10 _ rfl hi (by omega),
      numberAt_flatMap (f := d.ringSnapBytes) (fun _ => rfl) _ (by simp) hk]
    simp
  refine ⟨?_, ?_, ?_, ?_, ?_, ?_⟩
  · exact (hbytes 0 (by omega) (by decide)).trans (numberAt_bytesOf 2 _)
  · exact (hbytes 2 (by omega) (by decide)).trans (numberAt_bytesOf 2 _)
  · exact (hbytes 4 (by omega) (by decide)).trans (ofNat_toNat_of_byte (ringCodes_lt _ _ r))
  · exact (hbytes 5 (by omega) (by decide)).trans (BitVec.toNat_ofNat _ _)
  · rw [← countP_slots_byte, ← held_eq]
    exact hbytes 6 (by omega) (by decide)
  · rw [← countP_slots_byte, ← liveCount_eq]
    exact hbytes 7 (by omega) (by decide)

theorem snapshot_cring_bytes (d : Device) (n : CRingId) {i : Nat} (k : Nat) {w : Nat}
    (hi : i = (if n = .c0 then 224 else 232) + k) (hk : k + w ≤ 8) :
    numberAt d.snapshotImage i w = numberAt (cringSnapBytes (d.cring n)) k w := by
  cases n with
  | c0 => exact numberAt_snapshotImage 12 _ rfl hi hk
  | c1 => exact numberAt_snapshotImage 13 _ rfl hi hk

theorem snapshot_cring (d : Device) (n : CRingId) {i : Nat} (hi : i = if n = .c0 then 224 else 232) :
    numberAt d.snapshotImage i 1 = cringStateCode (d.cring n).state ∧
      numberAt d.snapshotImage (i + 1) 1 =
        (d.cring n).phase.toNat + 2 * (d.cring n).ic.toNat + 4 * (d.cring n).inflight.isSome.toNat ∧
      numberAt d.snapshotImage (i + 2) 2 = (d.cring n).producer % 65536 ∧
      numberAt d.snapshotImage (i + 4) 2 = (d.cring n).consumer % 65536 ∧
      numberAt d.snapshotImage (i + 6) 1 = (d.cring n).queue.length % 256 := by
  have hbytes (k : Nat) {w : Nat} (hk : k + w ≤ 8) :=
    snapshot_cring_bytes d n k (congrArg (· + k) hi) hk
  refine ⟨?_, ?_, ?_, ?_, ?_⟩
  · exact (hbytes 0 (by decide)).trans (ofNat_toNat_of_byte (cringStateCode_lt _))
  · exact (hbytes 1 (by decide)).trans (flags_toNat _ _ _)
  · exact (hbytes 2 (by decide)).trans (numberAt_bytesOf 2 _)
  · exact (hbytes 4 (by decide)).trans (numberAt_bytesOf 2 _)
  · exact (hbytes 6 (by decide)).trans (BitVec.toNat_ofNat _ _)

theorem numberAt_bytesOf_word (v : Word) : numberAt (bytesOf 4 v.toNat) 0 4 = v.toNat :=
  (numberAt_bytesOf 4 _).trans (Nat.mod_eq_of_lt v.isLt)

theorem snapshot_block (d : Device) :
    numberAt d.snapshotImage 0 4 = d.now.toNat ∧ numberAt d.snapshotImage 4 1 = dstateCode d.dstate ∧
      numberAt d.snapshotImage 5 1 = hreasonCode d.hreason ∧ numberAt d.snapshotImage 6 1 = d.timing.length % 256 ∧
      numberAt d.snapshotImage 8 4 = d.alert.toNat := by
  have hbytes {i : Nat} (k : Nat) (hi : i = 4 + k) (hk : k + 1 ≤ 4) :=
    numberAt_snapshotImage (d := d) 1 _ rfl hi hk
  refine ⟨?_, ?_, ?_, ?_, ?_⟩
  · exact (numberAt_snapshotImage 0 0 rfl rfl (by decide)).trans (numberAt_bytesOf_word _)
  · exact (hbytes 0 rfl (by decide)).trans (ofNat_toNat_of_byte ((dstateCode_lt _).trans (by decide)))
  · exact (hbytes 1 rfl (by decide)).trans (ofNat_toNat_of_byte ((hreasonCode_lt _).trans (by decide)))
  · exact (hbytes 2 rfl (by decide)).trans (BitVec.toNat_ofNat _ _)
  · exact (numberAt_snapshotImage 2 0 rfl rfl (by decide)).trans (numberAt_bytesOf_word _)

theorem snapshot_supervision (d : Device) :
    numberAt d.snapshotImage 172 1 = supvCode d.sup.supv ∧ numberAt d.snapshotImage 174 2 = d.sup.interval.toNat ∧
      numberAt d.snapshotImage 176 4 = (d.sup.countdown.getD 0).toNat := by
  have hcountdown : countdownField d.sup.countdown = (d.sup.countdown.getD 0).toNat := by
    cases d.sup.countdown <;> rfl
  refine ⟨?_, ?_, ?_⟩
  · exact (numberAt_snapshotImage 7 0 rfl rfl (by decide)).trans (ofNat_toNat_of_byte (supvCode_lt _))
  · exact (numberAt_snapshotImage 8 0 rfl rfl (by decide)).trans
      ((numberAt_bytesOf 2 _).trans (Nat.mod_eq_of_lt d.sup.interval.isLt))
  · rw [← numberAt_bytesOf_word, ← hcountdown]
    exact numberAt_snapshotImage 9 0 rfl rfl (by decide)

theorem snapshot_free (d : Device) :
    numberAt d.snapshotImage 220 1 =
        (List.finRange 64).countP (fun a => decide (a.val < 60) && d.slots[a].isNone) ∧
      numberAt d.snapshotImage 221 1 =
        (List.finRange 64).countP (fun a => decide (60 ≤ a.val) && d.slots[a].isNone) := by
  constructor
  · rw [← countP_slots_byte, ← freeSlots_action]
    exact numberAt_snapshotImage 11 0 rfl rfl (by decide)
  · rw [← countP_slots_byte, ← freeSlots_admin]
    exact numberAt_snapshotImage 11 1 rfl rfl (by decide)

theorem snapshot_reserved (d : Device) {i : Nat} (h : snapshotReserved i) : numberAt d.snapshotImage i 1 = 0 := by
  obtain rfl | hi | hi | rfl | rfl | rfl | rfl | rfl | hi := h
  · exact numberAt_snapshotImage 1 3 rfl rfl (by decide)
  · rw [numberAt_snapshotImage 3 (i - 12) rfl (by omega) (by omega)]
    exact numberAt_replicate_zero _ _
  · obtain ⟨hfirst, hlast, hplace⟩ := hi
    rw [show i = 144 + (4 * ((i - 144) / 4) + i % 4) by omega,
      snapshot_group_bytes d ⟨(i - 144) / 4, by omega⟩ (by omega)]
    obtain hb | hb : i % 4 = 2 ∨ i % 4 = 3 := by omega
    · rw [hb]
      rfl
    · rw [hb]
      rfl
  · exact numberAt_snapshotImage 7 1 rfl rfl (by decide)
  · exact numberAt_snapshotImage 11 2 rfl rfl (by decide)
  · exact numberAt_snapshotImage 11 3 rfl rfl (by decide)
  · exact snapshot_cring_bytes d .c0 7 rfl (by decide)
  · exact snapshot_cring_bytes d .c1 7 rfl (by decide)
  · rw [numberAt_snapshotImage 14 (i - 240) rfl (by omega) (by omega)]
    exact numberAt_replicate_zero _ _

/-- The image holds the table of 12.5. -/
theorem snapshot_holds (d : Device) : d.SnapshotHolds d.snapshotImage :=
  ⟨snapshotImage_length d, snapshot_block d, snapshot_point d, snapshot_input d, snapshot_group d,
    snapshot_supervision d, snapshot_ring d, snapshot_free d, fun n _ hi => snapshot_cring d n hi,
    fun _ => snapshot_reserved d⟩

/-! ## SNAPSHOT and the end of its write -/

section
variable {s : State} {head : RawRecord} {rest : List RawRecord} {a : Slot}

/-- The block whose SNAPSHOT is taken and ADMIN_ACTIVE (R186). -/
def Device.snapshotTaken (d : Device) (head : RawRecord) (rest : List RawRecord) (a : Slot) : Device :=
  { d.takeHead 0 a head rest with slots := d.slots.set a (some (d.entryOf 0 head .adminActive)) }

theorem takeHead_adminActive :
    (d.takeHead 0 a head rest).setEntryState a .adminActive = d.snapshotTaken head rest a := by
  rw [takeHead_setEntryState]
  simp [Device.snapshotTaken, Device.setSlot]

/-- What a good SNAPSHOT does, by the state of the bus (R186, R187). -/
theorem doSnapshot_taken (hok : snapshotOk head = true) :
    (d.takeHead 0 a head rest).doSnapshot a head =
      if d.busReady then
        { d.snapshotTaken head rest a with
          snapWrite := some ⟨addrAt head 8, (d.snapshotTaken head rest a).snapshotImage⟩ }
      else (d.snapshotTaken head rest a).answer a .abuf 0 := by
  rw [Device.doSnapshot, if_pos hok, takeHead_adminActive]
  rfl

theorem closes_snapshot (ht : s.dev.TakesAdmin .snapshot head rest a)
    (hstate : s.dev.dstate = .configure ∨ s.dev.dstate = .run) {x : Device}
    (hx : Device.doSnapshot a head (s.dev.takeHead 0 a head rest) = x) : Closes .snapshot s x :=
  closes_admin rfl ht (by simpa [Device.adminPermitted] using hstate) hx

/-- A write that ends answers the SNAPSHOT (R187). -/
theorem closes_snapshotEnd {c : Instr} {w : SnapWrite} {st : Status}
    (hc : exec c s = .next { s with dev := s.dev.endSnapshot st }) (hw : s.dev.snapWrite = some w)
    (ha : s.dev.adminActive? = some a) :
    Closes c s (({ s.dev with snapWrite := none } : Device).answer a st 0) := by
  refine closes_event (f := fun d => ({ d with snapWrite := none } : Device).answer a st 0) ?_ rfl
  rw [hc, Device.endSnapshot, hw, ha]

end

/-- Settles O37: the image by the table of 12.5, the taking by the state of the bus, and the two ends of the write. -/
theorem snapshotWritten : Obligations.SnapshotWritten := by
  refine ⟨snapshot_holds, ⟨rfl, rfl, rfl, rfl⟩,
    fun s head rest a x ht hstate hok hx => ⟨fun hb => ?_, fun hb => ?_⟩,
    fun s w a hw ha => ⟨closes_snapshotEnd rfl hw ha, closes_snapshotEnd rfl hw ha⟩⟩
  · subst hx
    exact closes_snapshot ht hstate ((doSnapshot_taken hok).trans (if_pos hb))
  · have habuf : Closes .snapshot s (x.answer a .abuf 0) := by
      subst hx
      exact closes_snapshot ht hstate ((doSnapshot_taken hok).trans (if_neg (ne_true_of_eq_false hb)))
    refine ⟨habuf, fun h1 hm hq => ?_⟩
    have hready : (x.answer a .abuf 0).busReady = false := by
      rw [answer_busReady, hx]
      exact hb
    unfold Closes
    rw [← closedFrom_congr (served_eq_halt hready (not_writeDue_iff.mpr h1) ⟨hm, hq⟩)]
    exact habuf

end Sys2Proof.Machine
end

section
/-! The step with a command waiting (O1, log 3). -/

namespace Sys2Proof.Machine

/-- Settles O1: `step`'s branch for a queue that holds a command. -/
theorem stepRunsFrontCommand : Obligations.StepRunsFrontCommand := by
  intro c d rest
  rfl

end Sys2Proof.Machine
end
